-- ==== Sys2Proof/Word.lean ====
section
/-! DEFINITION. The words the SM3 core computes on: 32-bit unsigned words and 8-bit bytes (spec R7, R8, R9).
Addition of words is `BitVec` addition, which wraps mod 2^32 (R10). -/

namespace Sys2Proof

/-- A 32-bit unsigned word; bit 0 is the least significant (R8). -/
abbrev Word := BitVec 32

/-- One byte of a byte string (R9). -/
abbrev Byte := BitVec 8

end Sys2Proof
end

