-- ==== Sys2Proof/Machine/Scratch.lean ====
section
/-! DEFINITION. The scratch state of one compression (spec R13, R31, R32): the working registers A..H, the expanded
words W and W′, and the round counter j. -/

namespace Sys2Proof.Machine

/-- The working registers A..H (R13, R31): eight 32-bit words, loaded from V at the start of each compression (R79). -/
structure Work where
  a : Word
  b : Word
  c : Word
  d : Word
  e : Word
  f : Word
  g : Word
  h : Word
  deriving DecidableEq, Repr, Inhabited

/-- The hidden scratch state of R32: "Their contents between compressions are unspecified, and no visible result
depends on them." -/
structure Scratch where
  /-- A..H. -/
  work : Work
  /-- W[0..67]. -/
  w : Vector Word 68
  /-- W′[0..63]. -/
  wPrime : Vector Word 64
  /-- The round counter j, 0..63. -/
  j : BitVec 6
  deriving DecidableEq, Repr, Inhabited

end Sys2Proof.Machine
end

