-- ==== Sys2Proof/Config.lean ====
section
/-! DEFINITION. What the spec leaves open and the model does not choose (spec R7, and 93_implementation_defined.md items
1 to 6). Every constant here has no body: nothing in Lean can evaluate it, so a theorem about the model holds whatever
its value. -/

namespace Sys2Proof

/-- The platform's choice of the window's place: `SM3_BASE` is 64 times this (R39: "a multiple of 64"). Log entry 1. -/
opaque Config.sm3BaseBlock : Nat

/-- `SM3_BASE`, the byte address of the register window on the host bus, 64-byte aligned (R7, R39; decision D3). -/
def Config.sm3Base : Nat := 64 * Config.sm3BaseBlock

/-- `LATENCY`: how many steps of the model the command accepted at draw `n` stays in flight before the step that
commits it (R82, R123; decision D10): finite, and free to differ between commands. Log entry 2. -/
opaque Config.latency : Nat → Nat

/-- What a byte cell of BUF at or above BUFLEN holds once it has no defined value (R15, R37; 93 items 1 and 2): the
draw, then the cell. Log entry 3. -/
opaque Config.freeByte : Nat → Nat → Byte

/-- What the scratch state holds after a compression or a reset (R32, R37; 93 item 3). Log entry 4. -/
opaque Config.freeScratch : Nat → Machine.Scratch

end Sys2Proof
end

