-- ==== Sys2Proof/Machine/Bytes.lean ====
section
/-! DEFINITION. Byte strings and the big-endian readings the core makes of them (spec R9, R49). -/

namespace Sys2Proof.Machine

/-- A 64-byte block (R7, R70). -/
abbrev Block := Vector Byte 64

/-- `BE32` of four bytes: the first is bits 31:24 (R9). -/
def be32 (b0 b1 b2 b3 : Byte) : Word := b0 ++ b1 ++ b2 ++ b3

/-- `bytes32(w)`: the four bytes of a word, most significant first (R9). -/
def bytes32 (w : Word) : List Byte :=
  [w.extractLsb' 24 8, w.extractLsb' 16 8, w.extractLsb' 8 8, w.extractLsb' 0 8]

/-- `BE64bytes(n)`: the eight bytes of a 64-bit number, most significant first (R9). -/
def be64bytes (n : BitVec 64) : List Byte :=
  bytes32 (n.extractLsb' 32 32) ++ bytes32 (n.extractLsb' 0 32)

/-- `zeros(k)` (R9). -/
def zeros (k : Nat) : List Byte := List.replicate k 0#8

/-- `s[0..64)` as a block. Every use is on a string of at least 64 bytes (R74), where no default is read. -/
def firstBlock (t : List Byte) : Block := Vector.ofFn fun i => t.getD i.val 0#8

end Sys2Proof.Machine
end

