-- ==== Sys2Proof/Machine/Permutation.lean ====
section
/-! DEFINITION. The rotation and the permutation functions P0 and P1 (spec R66 to R68). -/

namespace Sys2Proof.Machine

/-- `rotl(x, n)`: 32-bit left rotation, `n` taken modulo 32 (R66). -/
def rotl (x : Word) (n : Nat) : Word :=
  if n % 32 = 0 then x else (x <<< (n % 32)) ||| (x >>> (32 - n % 32))

/-- `P0(x) = x ⊕ rotl(x,9) ⊕ rotl(x,17)` (R67). -/
def p0 (x : Word) : Word := x ^^^ rotl x 9 ^^^ rotl x 17

/-- `P1(x) = x ⊕ rotl(x,15) ⊕ rotl(x,23)` (R68). -/
def p1 (x : Word) : Word := x ^^^ rotl x 15 ^^^ rotl x 23

end Sys2Proof.Machine
end

