-- ==== Sys2Proof/Machine/Expander.lean ====
section
/-! DEFINITION. The message expander (spec R70 to R73): one block to W[0..67] and W′[0..63]. -/

namespace Sys2Proof.Machine

/-- `BE32(B[4i .. 4i+4))`: word `i` of a block (R71). -/
def loadWord (b : Block) (i : Fin 16) : Word :=
  be32 b[4 * i.val] b[4 * i.val + 1] b[4 * i.val + 2] b[4 * i.val + 3]

/-- The next word of the recurrence (R72) from the words so far, LATEST FIRST: with W[i] the word being computed,
entry `k` of the list is W[i−1−k]. -/
def nextW (ws : List Word) : Word :=
  p1 (ws.getD 15 0#32 ^^^ ws.getD 8 0#32 ^^^ rotl (ws.getD 2 0#32) 15)
    ^^^ rotl (ws.getD 12 0#32) 7 ^^^ ws.getD 5 0#32

/-- W[0..16+n), latest first: the sixteen loaded words (R71), then `n` words of the recurrence (R72). -/
def expandRev (b : Block) : Nat → List Word
  | 0 => ((List.finRange 16).map (loadWord b)).reverse
  | n + 1 => nextW (expandRev b n) :: expandRev b n

/-- W[0..67] of a block (R70). -/
def expandW (b : Block) : Vector Word 68 :=
  Vector.ofFn fun i => (expandRev b 52).getD (67 - i.val) 0#32

/-- `W′[i] = W[i] ⊕ W[i+4]` (R73). -/
def expandWPrime (w : Vector Word 68) : Vector Word 64 :=
  Vector.ofFn fun i => w[i.val] ^^^ w[i.val + 4]

end Sys2Proof.Machine
end

