-- ==== Sys2Proof/Machine/Compression.lean ====
section
/-! DEFINITION. The initial value (spec R24) and the compression engine (R76 to R80). -/

namespace Sys2Proof.Machine

/-- The initial value IV (R24, from general knowledge there; decision D25). Log entry 13. -/
def iv : Vector Word 8 :=
  #v[0x7380166F#32, 0x4914B2B9#32, 0x172442D7#32, 0xDA8A0600#32,
     0xA96F30BC#32, 0x163138AA#32, 0xE38DEE4D#32, 0xB0FB0E4E#32]

/-- `T(j)` (R76). -/
def roundT (j : Nat) : Word := if j ≤ 15 then 0x79CC4519#32 else 0x7A879D8A#32

/-- `Tj_rot(j) = rotl(T(j), j mod 32)` (R76). -/
def roundConstant (j : Nat) : Word := rotl (roundT j) (j % 32)

/-- `FF(j, x, y, z)`: exclusive or, then bitwise majority from j = 16 (R77). -/
def ff (j : Nat) (x y z : Word) : Word :=
  if j ≤ 15 then x ^^^ y ^^^ z else (x &&& y) ||| (x &&& z) ||| (y &&& z)

/-- `GG(j, x, y, z)`: exclusive or, then bitwise choose from j = 16 (R77). -/
def gg (j : Nat) (x y z : Word) : Word :=
  if j ≤ 15 then x ^^^ y ^^^ z else (x &&& y) ||| (~~~x &&& z)

/-- `SS1` of round `j` (R78). -/
def roundSS1 (j : Nat) (r : Work) : Word := rotl (rotl r.a 12 + r.e + roundConstant j) 7

/-- `SS2` of round `j` (R78). -/
def roundSS2 (j : Nat) (r : Work) : Word := roundSS1 j r ^^^ rotl r.a 12

/-- `TT1` of round `j`, which adds W′[j] (R78). -/
def roundTT1 (j : Nat) (r : Work) (wPrime : Word) : Word :=
  ff j r.a r.b r.c + r.d + roundSS2 j r + wPrime

/-- `TT2` of round `j`, which adds W[j] (R78). -/
def roundTT2 (j : Nat) (r : Work) (w : Word) : Word :=
  gg j r.e r.f r.g + r.h + roundSS1 j r + w

/-- One round on the working registers (R78). Every right-hand side reads the value before the round. -/
def round (j : Nat) (r : Work) (w wPrime : Word) : Work where
  a := roundTT1 j r wPrime
  b := r.a
  c := rotl r.b 9
  d := r.c
  e := p0 (roundTT2 j r w)
  f := r.e
  g := rotl r.f 19
  h := r.g

/-- The state unpacked into the working registers (R79). -/
def loadWork (v : Vector Word 8) : Work := ⟨v[0], v[1], v[2], v[3], v[4], v[5], v[6], v[7]⟩

/-- The working registers after rounds 0 .. n−1, in order (R79, R80). -/
def roundsFrom (w : Vector Word 68) (r : Work) : Nat → Work
  | 0 => r
  | n + 1 => round n (roundsFrom w r n) (w.toList.getD n 0#32) ((expandWPrime w).toList.getD n 0#32)

/-- The element-wise exclusive or of the state with the working registers (R79). -/
def feedForward (v : Vector Word 8) (r : Work) : Vector Word 8 :=
  #v[v[0] ^^^ r.a, v[1] ^^^ r.b, v[2] ^^^ r.c, v[3] ^^^ r.d,
     v[4] ^^^ r.e, v[5] ^^^ r.f, v[6] ^^^ r.g, v[7] ^^^ r.h]

/-- `CF(V, B)`: the compression function (R79). -/
def cf (v : Vector Word 8) (b : Block) : Vector Word 8 :=
  feedForward v (roundsFrom (expandW b) (loadWork v) 64)

/-- CF over the first `n` whole blocks of a byte string, in message order (R80, R87, R89). -/
def compressBlocks : Nat → Vector Word 8 → List Byte → Vector Word 8
  | 0, v, _ => v
  | n + 1, v, t => compressBlocks n (cf v (firstBlock t)) (t.drop 64)

end Sys2Proof.Machine
end

