-- ==== Sys2Proof/Machine/Port.lean ====
section
/-! DEFINITION. What crosses the core's port: host accesses and their answers (spec R39 to R48, R100, R101), and the
platform's other inputs (R113). -/

namespace Sys2Proof.Machine

inductive AccessKind where
  | read
  | write
  deriving DecidableEq, Repr

/-- One host bus access: `acc = (kind, off, size, value)` of R43, with the byte address in place of the offset (R55) and
the master that makes it, which no rule looks at (R52, R107). -/
structure Access where
  /-- Which bus master makes the access. -/
  master : Nat
  kind : AccessKind
  /-- The byte address on the host bus. -/
  addr : Nat
  /-- The size in bytes: 4 is the only legal one; 1, 2, 8 and bursts are the others (R41). -/
  size : Nat
  /-- The value a 32-bit write carries; not looked at for a read or another size. -/
  value : Word
  deriving DecidableEq, Repr

/-- The bus errors of R101. -/
inductive BusError where
  /-- The size is not 32 bits (R41). -/
  | beSize
  /-- The offset is not a multiple of 4 (R41). -/
  | beAlign
  /-- A reserved offset: 0x0C, 0x18 or 0x1C (R42). -/
  | beUnmapped
  /-- A read of CMD, or a write of a read-only register (R42). -/
  | beDirection
  deriving DecidableEq, Repr

/-- Every abnormal outcome the core can produce (R101): a bus error, or an illegal command word at its commit. -/
inductive Cause where
  | bus (e : BusError)
  | illcmd
  deriving DecidableEq, Repr

/-- The numeric labels of R101; no register holds them. -/
def causeCode : Cause → Nat
  | .bus .beSize => 1
  | .bus .beAlign => 2
  | .bus .beUnmapped => 3
  | .bus .beDirection => 4
  | .illcmd => 5

/-- How an access ends at the port. A bus error is an answer, not a stop of the core (R100; log entry 9). -/
inductive Answer where
  /-- A read returned a word (R45). -/
  | data (v : Word)
  /-- A write completed (R47). -/
  | written
  /-- The bus's error response (R100). -/
  | error (e : BusError)
  deriving DecidableEq, Repr

/-- One completed access, as its master sees it. -/
structure Response where
  access : Access
  answer : Answer
  deriving DecidableEq, Repr

/-- One event the platform gives the core. -/
inductive Input where
  /-- The bus delivers an access to the port (R50). -/
  | access (a : Access)
  /-- The reset input is asserted (R113). -/
  | resetAssert
  /-- The reset input is released (R113). -/
  | resetRelease
  /-- Time passes and nothing arrives. -/
  | quiet
  deriving DecidableEq, Repr

/-- What a legal access does (R40, R45, R47): every register in every direction R42 allows. -/
inductive BusOp where
  | readStatus
  | readDatain
  | readLenlo
  | readLenhi
  | readDigest (i : Fin 8)
  | writeCmd
  | writeDatain
  deriving DecidableEq, Repr

/-- The registers of the window by name (R40), for host programs (R64). -/
inductive Reg where
  | cmd
  | status
  | datain
  | lenlo
  | lenhi
  | digest (i : Fin 8)
  deriving DecidableEq, Repr

end Sys2Proof.Machine
end

