-- ==== Sys2Proof/Machine/State.lean ====
section
/-! DEFINITION. The state of the core (spec R13) and its port, the reasons a step can stop, and the state after reset
(R37). -/

namespace Sys2Proof.Machine

/-- Everything R13 lists, then the model's own view of the port and of what the spec leaves free. STATUS.BUSY is 1 exactly
when `pend` holds a command (R23, R28), so it has no field of its own; LENLO and LENHI mirror `len`, CMD has no
storage (R21, R22). -/
structure State where
  /-- V[0..7], the chaining state (R14). -/
  v : Vector Word 8
  /-- BUF[0..63]; only the cells below BUFLEN carry meaning (R15). -/
  buf : Vector Byte 64
  /-- BUFLEN, 0..63 (R16). -/
  buflen : BitVec 6
  /-- LEN, the count of bytes supplied, mod 2^64 (R18). -/
  len : BitVec 64
  /-- DATAIN (R19). -/
  datain : Word
  /-- DIGEST[0..7] (R20). -/
  digest : Vector Word 8
  /-- STATUS.DVALID (R29). -/
  dvalid : Bool
  /-- STATUS.ILL, sticky (R30). -/
  ill : Bool
  /-- PEND: the command word accepted and not yet committed (R23). -/
  pend : Option Word
  /-- A..H, W, W′ and j (R32). -/
  scratch : Scratch
  /-- The reset input as it stands: true while reset is asserted (R113). -/
  rst : Bool
  /-- The accesses being held, in the order the bus delivered them (R44). -/
  held : List Access
  /-- What the platform gives next, first to come first. The model's own field: log entry 5. -/
  inputs : List Input
  /-- The accesses completed so far, oldest first. The model's own field: log entry 5. -/
  responses : List Response
  /-- How many steps the command in flight still waits before the step that commits it (R82, R123). The model's own
  field: log entry 2. -/
  wait : Nat
  /-- How many free values have been drawn. The model's own field: log entries 2, 3 and 4. -/
  draws : Nat
  deriving DecidableEq, Repr

/-- Why the machine has no step (spec R113, decision D27: "stuck"). Log entry 12. -/
inductive Fault where
  /-- An access reached the core while reset was asserted; raised by `stepInReset`. Safe: the spec gives the case no step,
  and its premise RESET_QUIET rules it out. -/
  | accessDuringReset
  /-- Reset was asserted while an access was held; raised by `stepResetAssert`. Safe: the spec's reset step requires that no
  access is outstanding (RESET_QUIET). -/
  | resetNotQuiet
  deriving DecidableEq, Repr

/-- Why the model gives no meaning. -/
inductive Refusal where
  /-- The instruction has no meaning yet; raised by a refused arm of `exec`. No arm is refused now. Safe. -/
  | notModelled (mnemonic : String)
  deriving DecidableEq, Repr

/-- The outcomes of a step of this machine. -/
abbrev StepOutcome := Host.Outcome State Fault Refusal

/-- The core after reset (R37): idle, V = IV, BUFLEN = LEN = DATAIN = DIGEST = 0, DVALID = ILL = 0, PEND none, reset released,
no access held, nothing delivered. BUF and the scratch state are unspecified there (R37); zero is the model's choice
(log entries 3 and 4). -/
def State.reset : State where
  v := iv
  buf := Vector.replicate 64 0#8
  buflen := 0#6
  len := 0#64
  datain := 0#32
  digest := Vector.replicate 8 0#32
  dvalid := false
  ill := false
  pend := none
  scratch :=
    { work := ⟨0#32, 0#32, 0#32, 0#32, 0#32, 0#32, 0#32, 0#32⟩
      w := Vector.replicate 68 0#32
      wPrime := Vector.replicate 64 0#32
      j := 0#6 }
  rst := false
  held := []
  inputs := []
  responses := []
  wait := 0
  draws := 0

end Sys2Proof.Machine
end

