-- ==== Sys2Proof/Machine/Flags.lean ====
section
/-! DEFINITION. The flags BUSY, DVALID and ILL and the STATUS word (spec R25 to R30). The core has no condition codes
(R34). -/

namespace Sys2Proof.Machine

/-- STATUS.BUSY: a command is in flight (R23, R28). -/
def State.busy (s : State) : Bool := s.pend.isSome

/-- A flag as a one-bit word. -/
def flagWord (b : Bool) : Word := (BitVec.ofBool b).setWidth 32

/-- The STATUS word: `zext_32(BUFLEN) << 8 | ILL << 2 | DVALID << 1 | BUSY` (R25, R45). While a command is in flight the other
fields are those before it, since nothing of it is written before its commit (R26). -/
def statusWord (s : State) : Word :=
  (s.buflen.setWidth 32 <<< 8) ||| (flagWord s.ill <<< 2) ||| (flagWord s.dvalid <<< 1) ||| flagWord s.busy

/-- ILL <- 1: the one effect of an illegal command at its commit (R30, R99, R104). -/
def recordIllegal (s : State) : State := { s with ill := true }

/-- DVALID <- 0: UPDATE with NB ≥ 1 (R29). -/
def clearDvalid (s : State) : State := { s with dvalid := false }

end Sys2Proof.Machine
end

