-- ==== Sys2Proof/Machine/Operands.lean ====
section
/-! DEFINITION. The operands of the commands (spec R46, R58): the bytes of DATAIN, the buffered bytes, and the sum of
both. -/

namespace Sys2Proof.Machine

/-- The message bytes DATAIN carries: byte k is `DATAIN[31−8k : 24−8k]` (R46). -/
def datainBytes (d : Word) : List Byte := bytes32 d

/-- The chunk of `UPDATE n`: bytes 0..n−1 of DATAIN, the rest ignored (R46, R86). -/
def updateChunk (nb : BitVec 3) (d : Word) : List Byte := (datainBytes d).take nb.toNat

/-- `BUF[0 .. BUFLEN)`: the buffered bytes, the only ones of BUF any rule reads (R15, R38). -/
def State.tail (s : State) : List Byte := s.buf.toList.take s.buflen.toNat

end Sys2Proof.Machine
end

