-- ==== Sys2Proof/Machine/Padding.lean ====
section
/-! DEFINITION. The padding rule (spec R88), the final state words (R89), the digest's bytes (R90) and SM3 of a whole
message (R94). -/

namespace Sys2Proof.Machine

/-- `k := (55 − L) mod 64`, the number of zero bytes (R88); `mod` on integers is never negative (R10). -/
def padZeros (l : BitVec 64) : Nat := ((55 - (l.toNat : Int)) % 64).toNat

/-- `Pad(t, L) = t ‖ 0x80 ‖ zeros(k) ‖ BE64bytes((8·L) mod 2^64)` (R88; decision D14 for the wrap). Log entry 15. -/
def pad (t : List Byte) (l : BitVec 64) : List Byte :=
  t ++ [0x80#8] ++ zeros (padZeros l) ++ be64bytes (8#64 * l)

/-- The words FINALIZE computes from a state, a buffered tail and a length: CF over every block of the padded tail, on a
copy of the state (R89). -/
def finalWords (v : Vector Word 8) (t : List Byte) (l : BitVec 64) : Vector Word 8 :=
  compressBlocks ((pad t l).length / 64) v (pad t l)

/-- `bytes32(D[0]) ‖ … ‖ bytes32(D[7])` (R90). -/
def digestBytes (d : Vector Word 8) : List Byte := d.toList.flatMap bytes32

/-- The bytes of a message in whole blocks: `m[0 .. 64·⌊len(m)/64⌋)` (R94). -/
def wholeBlocks (m : List Byte) : List Byte := m.take (64 * (m.length / 64))

/-- The bytes of a message after its whole blocks, 0 to 63 of them (R94). -/
def tailBytes (m : List Byte) : List Byte := m.drop (64 * (m.length / 64))

/-- The padded message `q` of R94. -/
def paddedMessage (m : List Byte) : List Byte :=
  wholeBlocks m ++ pad (tailBytes m) (BitVec.ofNat 64 m.length)

/-- The final state words of a message: CF over the blocks of the padded message, from IV (R94). -/
def sm3Words (m : List Byte) : Vector Word 8 :=
  compressBlocks ((paddedMessage m).length / 64) iv (paddedMessage m)

/-- `SM3(m)`: the 32 digest bytes (R94). The spec claims it to be the SM3 digest for len(m) < 2^61 only (R97). -/
def sm3 (m : List Byte) : List Byte := digestBytes (sm3Words m)

end Sys2Proof.Machine
end

