-- ==== Sys2Proof/Machine/Ops.lean ====
section
/-! DEFINITION. The shared operations of the commands and of reset: Absorb (spec R87), the final words of FINALIZE (R89), the
free values of unspecified state (R15, R32), and reset (R113). The core has no trap mechanism (R104, R105): what it does on
an illegal command is `recordIllegal` (Flags.lean), and what it does on a malformed access is `receive` (Bus.lean). -/

namespace Sys2Proof.Machine

/-- BUF with the bytes `t` in its first cells; every other cell is free at draw `n` (R15, R87). -/
def bufferOf (n : Nat) (t : List Byte) : Vector Byte 64 :=
  Vector.ofFn fun i => t.getD i.val (Config.freeByte n i.val)

/-- The number of whole blocks Absorb consumes: its loop runs while at least 64 bytes are left (R87). -/
def blockCount (t : List Byte) : Nat := t.length / 64

/-- What Absorb leaves in the buffer (R87). -/
def absorbRest (t : List Byte) : List Byte := t.drop (64 * blockCount t)

/-- `Absorb(s)`: the whole blocks go through CF into V, the rest into BUF (R87). A compression leaves the scratch state
unspecified (R32). -/
def absorb (t : List Byte) (s : State) : State :=
  { s with
    v := compressBlocks (blockCount t) s.v t
    buf := bufferOf s.draws (absorbRest t)
    buflen := BitVec.ofNat 6 (absorbRest t).length
    scratch := if blockCount t = 0 then s.scratch else Config.freeScratch s.draws
    draws := s.draws + 1 }

/-- `LEN <- (LEN + n) mod 2^64` (R18, R86). -/
def addLength (nb : BitVec 3) (s : State) : State := { s with len := s.len + nb.setWidth 64 }

/-- V, BUFLEN, LEN, DVALID and ILL as `new()` has them; the cells of BUF become meaningless (R85, R114). -/
def freshContext (s : State) : State :=
  { s with
    v := iv
    buf := bufferOf s.draws []
    buflen := 0#6
    len := 0#64
    dvalid := false
    ill := false
    draws := s.draws + 1 }

/-- DIGEST gets the final words of the buffered tail and DVALID is set; V, BUF, BUFLEN and LEN are only read (R89). -/
def writeDigest (s : State) : State :=
  { s with
    digest := finalWords s.v s.tail s.len
    dvalid := true
    scratch := Config.freeScratch s.draws
    draws := s.draws + 1 }

/-- Every element of R13 at its reset value, BUF and the scratch state unspecified (R37, R113): a command in flight is
discarded. The reset input and the rest of the platform's side stay as they are. -/
def applyReset (s : State) : State :=
  { s with
    v := iv
    buf := bufferOf s.draws []
    buflen := 0#6
    len := 0#64
    datain := 0#32
    digest := Vector.replicate 8 0#32
    dvalid := false
    ill := false
    pend := none
    scratch := Config.freeScratch s.draws
    wait := 0
    draws := s.draws + 1 }

/-- The reset input changes to `b`. -/
def setReset (b : Bool) (s : State) : State := { s with rst := b }

/-- PEND <- none; BUSY <- 0: the command leaves flight (R82). -/
def clearPend (s : State) : State := { s with pend := none }

/-- One step of the command in flight passes (R123). -/
def tick (n : Nat) (s : State) : State := { s with wait := n }

/-- The next input is taken; `rest` are those after it. -/
def setInputs (rest : List Input) (s : State) : State := { s with inputs := rest }

/-- The accesses held become `as`. -/
def setHeld (as : List Access) (s : State) : State := { s with held := as }

end Sys2Proof.Machine
end

