-- ==== Sys2Proof/Machine/Bus.lean ====
section
/-! DEFINITION. The register window: which access does what (spec R39 to R48), the busy hold (R44) and the issue of a command
(R81). -/

namespace Sys2Proof.Machine

/-- `off(reg)` (R40, R64). -/
def regOffset : Reg → Nat
  | .cmd => 0x00
  | .status => 0x04
  | .datain => 0x08
  | .lenlo => 0x10
  | .lenhi => 0x14
  | .digest i => 0x20 + 4 * i.val

/-- The offset `address − SM3_BASE` of an address inside the 64-byte window, none outside it (R39, R55). -/
def windowOffset (addr : Nat) : Option (Fin 64) :=
  if h : Config.sm3Base ≤ addr ∧ addr < Config.sm3Base + 64 then some ⟨addr - Config.sm3Base, by omega⟩ else none

/-- A read of an aligned word at an offset that is not reserved: CMD is write-only (R42, R45). -/
def readOp (off : Nat) : Except BusError BusOp :=
  if off = 0x00 then .error .beDirection
  else if off = 0x04 then .ok .readStatus
  else if off = 0x08 then .ok .readDatain
  else if off = 0x10 then .ok .readLenlo
  else if off = 0x14 then .ok .readLenhi
  else .ok (.readDigest (Fin.ofNat 8 ((off - 0x20) / 4)))

/-- A write of an aligned word at an offset that is not reserved: only CMD and DATAIN can be written (R42, R47). -/
def writeOp (off : Nat) : Except BusError BusOp :=
  if off = 0x00 then .ok .writeCmd
  else if off = 0x08 then .ok .writeDatain
  else .error .beDirection

/-- The checks of R43, in its order: the first that fails names the error. -/
def busCheck (kind : AccessKind) (off : Fin 64) (size : Nat) : Except BusError BusOp :=
  if size ≠ 4 then .error .beSize
  else if off.val % 4 ≠ 0 then .error .beAlign
  else if off.val = 0x0C ∨ off.val = 0x18 ∨ off.val = 0x1C then .error .beUnmapped
  else match kind with
    | .read => readOp off.val
    | .write => writeOp off.val

/-- An access ends with an answer (R100 for an error response). -/
def respond (a : Access) (r : Answer) (s : State) : State := { s with responses := s.responses ++ [⟨a, r⟩] }

/-- `DATAIN <- v` (R47). -/
def writeDatain (v : Word) (s : State) : State := { s with datain := v }

/-- A word is accepted by CMD: `PEND <- c; BUSY <- 1` and nothing else (R81). How long it stays in flight is drawn here
(R123). -/
def accept (c : Word) (s : State) : State :=
  { s with pend := some c, wait := Config.latency s.draws, draws := s.draws + 1 }

/-- A legal, unheld access is performed (R45, R47). No read has a side effect. -/
def perform (op : BusOp) (a : Access) (s : State) : State :=
  match op with
  | .readStatus => respond a (.data (statusWord s)) s
  | .readDatain => respond a (.data s.datain) s
  | .readLenlo => respond a (.data (s.len.extractLsb' 0 32)) s
  | .readLenhi => respond a (.data (s.len.extractLsb' 32 32)) s
  | .readDigest i => respond a (.data s.digest[i]) s
  | .writeCmd => respond a .written (accept a.value s)
  | .writeDatain => respond a .written (writeDatain a.value s)

/-- A legal access that arrives while BUSY = 1 waits behind those held before it (R44). -/
def hold (a : Access) (s : State) : State := setHeld (s.held ++ [a]) s

/-- One host access, by the pseudocode of R43: an access that fails a check is answered at once, even while BUSY = 1, and
changes nothing; while BUSY = 1 a legal one is held unless it reads STATUS; every other one is performed. An address outside
the window is no access to this core (R55): log entry 6. -/
def receive (a : Access) (s : State) : State :=
  match windowOffset a.addr with
  | none => s
  | some off =>
    match busCheck a.kind off a.size with
    | .error e => respond a (.error e) s
    | .ok op => if s.busy ∧ op ≠ .readStatus then hold a s else perform op a s

/-- The next input, when it is not a reset: an access is received, anything else only passes. -/
def takeInput (s : State) : State :=
  match s.inputs with
  | [] => s
  | .access a :: rest => receive a (setInputs rest s)
  | _ :: rest => setInputs rest s

/-- With no command in flight, held accesses are performed first, one a step, in the order the bus delivered them (R44,
R50); then the next input is taken. An idle core with no input stays as it is (R112). Log entries 8 and 11. -/
def serveIdle (s : State) : State :=
  match s.held with
  | a :: rest => receive a (setHeld rest s)
  | [] => takeInput s

/-- The platform asserts reset next (R113). -/
def resetNext (s : State) : Bool := s.inputs.head? = some .resetAssert

/-- Reset is asserted. It takes priority over a commit (R103) and requires that no access is outstanding (R113,
RESET_QUIET). -/
def stepResetAssert (s : State) : StepOutcome :=
  if s.held = [] then .next (setReset true (applyReset (setInputs s.inputs.tail s)))
  else .fault .resetNotQuiet

/-- A step while reset is asserted: every element of R13 is at its reset value, and so it is at the release. An access to the
core has no step (R113). -/
def stepInReset (s : State) : StepOutcome :=
  match s.inputs with
  | .access a :: rest =>
    if (windowOffset a.addr).isSome then .fault .accessDuringReset else .next (applyReset (setInputs rest s))
  | .resetRelease :: rest => .next (setReset false (applyReset (setInputs rest s)))
  | _ :: rest => .next (applyReset (setInputs rest s))
  | [] => .next (applyReset s)

/-- The platform's inputs after any resets at their head. -/
def dropResets (is : List Input) : List Input := is.dropWhile fun i => i = .resetAssert

/-- The command word `c` in flight and about to commit: reset is released and none comes first. -/
def placeCommand (c : Word) (s : State) : State :=
  { s with pend := some c, wait := 0, rst := false, inputs := dropResets s.inputs }

/-- The bus delivers more accesses, after those still to come (R50). -/
def deliver (as : List Access) (s : State) : State := setInputs (s.inputs ++ as.map .access) s

end Sys2Proof.Machine
end

