-- ==== Sys2Proof/Syntax.lean ====
section
/-! DEFINITION. The instructions of the core: the four commands of spec/opcode_table.json (spec R57 to R59). -/

namespace Sys2Proof

/-- One constructor per row of spec/opcode_table.json. The data operand of UPDATE is the DATAIN register (R58). -/
inductive Instr where
  /-- OP 0x0, no operand (R84). -/
  | nop
  /-- OP 0x1, no operand (R85). -/
  | init
  /-- OP 0x2 with NB = c[6:4], an unsigned 3-bit byte count, not scaled (R58, R86). -/
  | update (nb : BitVec 3)
  /-- OP 0x3, no operand (R89). -/
  | finalize
  deriving DecidableEq, Repr

end Sys2Proof
end

