-- ==== Sys2Proof/WellFormed.lean ====
section
/-! DEFINITION. Which instructions have a legal command word (spec R59, R60). -/

namespace Sys2Proof

/-- UPDATE's byte count is at most 4 (R59, R60); the other commands have no operand to check. -/
def Instr.wf : Instr → Bool
  | .nop => true
  | .init => true
  | .update nb => nb.toNat ≤ 4
  | .finalize => true

end Sys2Proof
end

