-- ==== Sys2Proof/Decode.lean ====
section
/-! DEFINITION. The decoder of command words, total and rejecting by name (spec R57 to R62), and the encoder. -/

namespace Sys2Proof

/-- Why a command word is illegal: the four cases of R61, named by the model in an order of its own (log entry 16). -/
inductive DecodeError where
  /-- RSV = c[31:7] is not 0. -/
  | reservedBits
  /-- OP is 0x4 to 0xF. -/
  | reservedOp
  /-- OP = 0x2 with NB 5, 6 or 7. -/
  | byteCount
  /-- OP is 0x0, 0x1 or 0x3 with NB not 0. -/
  | byteCountNotZero
  deriving DecidableEq, Repr

/-- OP = c[3:0] (R57). -/
def opField (c : Word) : BitVec 4 := c.extractLsb' 0 4

/-- NB = c[6:4] (R57, R58). -/
def nbField (c : Word) : BitVec 3 := c.extractLsb' 4 3

/-- RSV = c[31:7] (R57). -/
def rsvField (c : Word) : BitVec 25 := c.extractLsb' 7 25

/-- A command with no operand: NB must be 0 (R61). -/
def decodeBare (i : Instr) (nb : BitVec 3) : Except DecodeError Instr :=
  if nb = 0#3 then .ok i else .error .byteCountNotZero

/-- UPDATE: NB must be at most 4 (R61). -/
def decodeUpdate (nb : BitVec 3) : Except DecodeError Instr :=
  if nb.toNat ≤ 4 then .ok (.update nb) else .error .byteCount

/-- The command a word stands for (R59), or the case of R61 that makes it illegal. Decoding depends on the 32-bit word
alone (R62). -/
def decode (c : Word) : Except DecodeError Instr :=
  if rsvField c ≠ 0#25 then .error .reservedBits
  else if opField c = 0x0#4 then decodeBare .nop (nbField c)
  else if opField c = 0x1#4 then decodeBare .init (nbField c)
  else if opField c = 0x2#4 then decodeUpdate (nbField c)
  else if opField c = 0x3#4 then decodeBare .finalize (nbField c)
  else .error .reservedOp

/-- A command word from its fields OP and NB, RSV being 0 (R57). -/
def commandWord (op : BitVec 4) (nb : BitVec 3) : Word :=
  op.setWidth 32 ||| (nb.setWidth 32 <<< 4)

/-- The command word of an instruction (R59). -/
def encode : Instr → Word
  | .nop => commandWord 0x0#4 0#3
  | .init => commandWord 0x1#4 0#3
  | .update nb => commandWord 0x2#4 nb
  | .finalize => commandWord 0x3#4 0#3

/-- The command word whose low `nbits` bits are `w`'s, every other bit 0. A command is one 32-bit value on the bus
(R49, R57), so no byte order enters. -/
def tableWord (nbits w : Nat) : Word := BitVec.ofNat 32 (w % 2 ^ nbits)

/-- The instruction the decoder reads from a word numbered as spec/opcode_table.json numbers it. -/
def decodeTableWord (nbits w : Nat) : Option Instr :=
  match decode (tableWord nbits w) with
  | .ok i => some i
  | .error _ => none

end Sys2Proof
end

