-- ==== Sys2Proof/Machine/Commands.lean ====
section
/-! DEFINITION. The meanings of the four commands: what `Exec(c)` does to the state at its commit (spec R83 to R89). -/

namespace Sys2Proof.Machine

/-- NOP: no state change (R84). -/
def execNop (s : State) : StepOutcome := .next s

/-- INIT: the document's `new()`. DATAIN and DIGEST are unchanged (R85). -/
def execInit (s : State) : StepOutcome := .next (freshContext s)

/-- UPDATE n (R86). NB 0 changes nothing at all; NB 5, 6 and 7 is an illegal command, whose one effect is ILL (R61,
R83, R99; log entry 10). -/
def execUpdate (nb : BitVec 3) (s : State) : StepOutcome :=
  if nb.toNat = 0 then .next s
  else if nb.toNat ≤ 4 then
    .next (clearDvalid (absorb (s.tail ++ updateChunk nb s.datain) (addLength nb s)))
  else .next (recordIllegal s)

/-- FINALIZE: the document's non-mutating `finalize()` (R89). -/
def execFinalize (s : State) : StepOutcome := .next (writeDigest s)

end Sys2Proof.Machine
end

