-- ==== Sys2Proof/Machine/Commit.lean ====
section
/-! DEFINITION. The commit of the command in flight (spec R82, R83). -/

namespace Sys2Proof.Machine

/-- `Exec(c)` and `PEND <- none` in one step (R82, R83): an illegal word sets ILL and does nothing else (R99), a legal one has
its meaning. -/
def commit (c : Word) (s : State) : StepOutcome :=
  match decode c with
  | .ok i => exec i (clearPend s)
  | .error _ => .next (recordIllegal (clearPend s))

end Sys2Proof.Machine
end

