-- ==== Sys2Proof/Machine/Step.lean ====
section
/-! DEFINITION. One step of the core: reset, or the commit of the command in flight, or one access at the port (spec R43, R44,
R50, R81, R82, R113, R123). -/

namespace Sys2Proof.Machine

/-- One step. While a command is in flight the core answers what it may and counts the command's wait down; at 0 it commits.
The wait is finite, so every accepted command commits (R123). Log entries 2 and 14. -/
def step (s : State) : Host.Outcome State Fault Refusal :=
  if s.rst then stepInReset s
  else if resetNext s then stepResetAssert s
  else
    match s.pend, s.wait with
    | some c, 0 => commit c s
    | some _, n + 1 => .next (takeInput (tick n s))
    | none, _ => .next (serveIdle s)

/-- `s` with a command word in flight, so that the very next step commits it: the core's only program store is the one
word in PEND (R23, R33). It stands for a CMD write that was accepted (R81). Log entry 7. -/
def State.withFetchWord (s : State) (nbits w : Nat) : State := placeCommand (tableWord nbits w) s

end Sys2Proof.Machine
end

