-- ==== Sys2Proof/Machine/HostOps.lean ====
section
/-! DEFINITION. The host's side of the port: the program syntax and pseudo-instructions (spec R64, R65) as bus accesses, and
the document's API on this core (R90 to R93). Nothing here is hardware: a program is a list of accesses the bus delivers. -/

namespace Sys2Proof.Machine

/-- One line of a host program (R64). -/
inductive HostOp where
  | nop
  | init
  /-- `UPDATE n`, n = 0..4. -/
  | update (n : Fin 5)
  | finalize
  /-- `CMD v`: any 32-bit word, legal or not. -/
  | cmd (v : Word)
  | wr (r : Reg) (v : Word)
  | rd (r : Reg)
  deriving DecidableEq, Repr

/-- `MemWrite(off(reg), 4, v)` by master `m` (R11, R64). -/
def memWrite (m : Nat) (r : Reg) (v : Word) : Access := ⟨m, .write, Config.sm3Base + regOffset r, 4, v⟩

/-- `MemRead(off(reg), 4)` by master `m` (R11, R64). -/
def memRead (m : Nat) (r : Reg) : Access := ⟨m, .read, Config.sm3Base + regOffset r, 4, 0#32⟩

/-- The access a line of a host program makes (R64). -/
def hostAccess (m : Nat) : HostOp → Access
  | .nop => memWrite m .cmd 0x00000000#32
  | .init => memWrite m .cmd 0x00000001#32
  | .update n => memWrite m .cmd (0x00000002#32 ||| (BitVec.ofNat 32 n.val <<< 4))
  | .finalize => memWrite m .cmd 0x00000003#32
  | .cmd v => memWrite m .cmd v
  | .wr r v => memWrite m r v
  | .rd r => memRead m r

/-- The word `b0<<24 | b1<<16 | b2<<8 | b3`, the missing bytes 0 (R65). -/
def packBytes (bs : List Byte) : Word := be32 (bs.getD 0 0#8) (bs.getD 1 0#8) (bs.getD 2 0#8) (bs.getD 3 0#8)

/-- `FEED b0[, b1[, b2[, b3]]]` (R65), for one to four bytes. -/
def feed (bs : List Byte) : List HostOp := [.wr .datain (packBytes bs), .update (Fin.ofNat 5 bs.length)]

/-- `FEEDSTR "s"`: FEED of each group of up to four bytes, nothing for the empty string (R65). -/
def feedStr : List Byte → List HostOp
  | [] => []
  | b0 :: b1 :: b2 :: b3 :: rest => feed [b0, b1, b2, b3] ++ feedStr rest
  | bs => feed bs

/-- `WAITIDLE` that takes `k + 1` reads of STATUS: the last is the first whose bit 0 is 0 (R65). How many that is, the
latency decides (R123, R124). -/
def waitIdle (k : Nat) : List HostOp := List.replicate (k + 1) (.rd .status)

/-- `READDIGEST` (R65). -/
def readDigest : List HostOp := (List.finRange 8).map fun i => .rd (.digest i)

/-- `HASH "s"`, the document's one-shot `hash` (R65, R93). -/
def hashProgram (m : List Byte) : List HostOp := [.init] ++ feedStr m ++ [.finalize] ++ readDigest

/-- The accesses of a host program of one master, in program order (R50: the model assumes HOST_IN_ORDER). -/
def programAccesses (m : Nat) (ops : List HostOp) : List Access := ops.map (hostAccess m)

/-- The words that reads have returned, oldest first. -/
def readWords (rs : List Response) : List Word :=
  rs.filterMap fun r => match r.answer with
    | .data v => some v
    | .written => none
    | .error _ => none

/-- `digest()`: the bytes of the eight DIGEST words read (R90, R91). -/
def digestOfReads (ws : List Word) : List Byte := ws.flatMap bytes32

/-- The hex digits (R92). -/
def hexAlphabet : List Char :=
  ['0', '1', '2', '3', '4', '5', '6', '7', '8', '9', 'a', 'b', 'c', 'd', 'e', 'f']

/-- `hexdigest()`: two characters a byte, the high nibble first (R92). -/
def hexDigest (bs : List Byte) : List Char :=
  bs.flatMap fun b => [hexAlphabet.getD (b.toNat / 16) '0', hexAlphabet.getD (b.toNat % 16) '0']

end Sys2Proof.Machine
end

