-- ==== Sys2Proof/Safety.lean ====
section
/-! DEFINITION. The terms claims are stated in: what a run must be spared (RESET_QUIET, spec R113), the machine's invariant
(R17, R25), sequences of UPDATEs (R94, R95), the atomic view of R82, and what no visible result depends on (R38). -/

namespace Sys2Proof.Machine

/-- No command in flight, no access held, reset released. -/
abbrev Idle (s : State) : Prop := s.rst = false ∧ s.pend = none ∧ s.held = []

/-- A command is in flight and does not commit in the next step; reset is released. -/
abbrev InFlight (s : State) : Prop := s.rst = false ∧ s.pend ≠ none ∧ 0 < s.wait

/-- The command `c` commits in the next step: its wait is over and no reset comes first (R82, R103). -/
abbrev Commits (c : Word) (s : State) : Prop :=
  s.rst = false ∧ resetNext s = false ∧ s.pend = some c ∧ s.wait = 0

/-- The next step takes the access `a` from the port; `rest` comes after it. -/
abbrev Receives (a : Access) (rest : List Input) (s : State) : Prop :=
  s.inputs = .access a :: rest ∧ (Idle s ∨ InFlight s)

/-- The access is at offset `off` of the window. -/
abbrev AtOffset (a : Access) (off : Nat) : Prop := a.addr = Config.sm3Base + off ∧ off < 64

/-- RESET_QUIET (R113), for the next step: no access reaches the core while reset is asserted, and reset is asserted with
no access held. -/
abbrev ResetQuiet (s : State) : Prop :=
  (s.rst = true → ∀ a rest, s.inputs = .access a :: rest → windowOffset a.addr = none) ∧
  (s.rst = false → resetNext s = true → s.held = [])

/-- The access is one the core performs (R43): inside the window and passing every check. -/
abbrev LegalAccess (a : Access) : Prop := ∃ off op, windowOffset a.addr = some off ∧ busCheck a.kind off a.size = .ok op

/-- `a` is a 32-bit write at offset `off` that a step may perform: no command is in flight, and `a` is the first access held or
the next one delivered (R44, R47). -/
abbrev MayPerformWrite (a : Access) (off : Nat) (s : State) : Prop :=
  s.pend = none ∧ (s.held.head? = some a ∨ s.inputs.head? = some (.access a)) ∧
  a.kind = .write ∧ a.size = 4 ∧ AtOffset a off

/-- Every element of R13 is the same in both states, but for the scratch state, which no rule fixes while a command is in
flight (R32; log entry 4). -/
abbrev SameCore (s t : State) : Prop :=
  t.v = s.v ∧ t.buf = s.buf ∧ t.buflen = s.buflen ∧ t.len = s.len ∧ t.datain = s.datain ∧ t.digest = s.digest ∧
  t.dvalid = s.dvalid ∧ t.ill = s.ill ∧ t.pend = s.pend

/-- The port and the reset input are the same in both states. -/
abbrev SamePort (s t : State) : Prop :=
  t.rst = s.rst ∧ t.held = s.held ∧ t.inputs = s.inputs ∧ t.responses = s.responses

/-- V, BUF[0..BUFLEN), BUFLEN and LEN hold exactly the message `m` supplied since the last INIT or reset: V is CF over its
whole blocks from IV, the buffer its remaining bytes, LEN its length (R14, R15, R17, R18). -/
def Represents (m : List Byte) (s : State) : Prop :=
  s.v = compressBlocks (m.length / 64) iv m ∧ s.tail = tailBytes m ∧ s.len = BitVec.ofNat 64 m.length

/-- An access that R44 may hold: inside the window, passing the checks, and no read of STATUS. -/
def ordinary (a : Access) : Bool :=
  match windowOffset a.addr with
  | none => false
  | some off =>
    match busCheck a.kind off a.size with
    | .error _ => false
    | .ok op => op ≠ .readStatus

/-- What holds of the core after every step: (a) to (c) of R17 for the message supplied so far; DVALID = 1 only when DIGEST
is the digest of exactly that message (R25); only accesses R44 may hold are held; while reset is asserted no command is in
flight and no access held (R113). -/
def Inv (s : State) : Prop :=
  s.buflen.toNat < 64 ∧ s.len.toNat % 64 = s.buflen.toNat ∧
  (∃ m, Represents m s ∧ (s.dvalid = true → s.digest = sm3Words m)) ∧
  (∀ a ∈ s.held, ordinary a = true) ∧
  (s.rst = true → s.pend = none ∧ s.held = [])

/-- One UPDATE with the DATAIN value it consumes: its byte count and that value. -/
abbrev Chunk := BitVec 3 × Word

/-- The message bytes a sequence of UPDATEs supplies (R46, R86). -/
def chunkBytes (cs : List Chunk) : List Byte := cs.flatMap fun c => updateChunk c.1 c.2

/-- Each UPDATE of a sequence after the DATAIN write that supplies its bytes, by the meanings alone (R94, R95). -/
def runUpdates : List Chunk → State → StepOutcome
  | [], s => .next s
  | c :: cs, s =>
    match exec (.update c.1) (writeDatain c.2 s) with
    | .next t => runUpdates cs t
    | .fault f => .fault f
    | .refused r => .refused r

/-- One access as R82's atomic form has it: a command commits at the moment its CMD write is accepted. -/
def atomicAccess (a : Access) (s : State) : StepOutcome :=
  match (receive a s).pend with
  | some c => commit c (tick 0 (receive a s))
  | none => .next (receive a s)

/-- The accesses of a list in order, each in the atomic form of R82. -/
def runAtomic : List Access → State → StepOutcome
  | [], s => .next s
  | a :: as, s =>
    match atomicAccess a s with
    | .next t => runAtomic as t
    | .fault f => .fault f
    | .refused r => .refused r

/-- The answers to the accesses R44 may hold: all but STATUS reads and bus errors, in the order they were performed. -/
def ordinaryResponses (s : State) : List Response := s.responses.filter fun r => ordinary r.access

/-- The answers to the accesses R44 never holds: STATUS reads and bus errors. -/
def promptResponses (s : State) : List Response := s.responses.filter fun r => !ordinary r.access

/-- The answer is a STATUS word with BUSY = 1: the one thing a host sees that the atomic form of R82 does not have. -/
def showsBusy (r : Answer) : Prop := ∃ x : Word, r = .data x ∧ x.getLsbD 0 = true

/-- The two answer the same access alike, or the first is a read that shows BUSY = 1. -/
def SameButBusy (r r' : Response) : Prop := r.access = r'.access ∧ (r.answer = r'.answer ∨ showsBusy r.answer)

/-- The two states differ at most in the cells of BUF at or above BUFLEN and in the scratch state, which no rule reads
(R15, R32, R38). -/
abbrev AgreeOnSpecified (s t : State) : Prop :=
  t.v = s.v ∧ t.tail = s.tail ∧ t.buflen = s.buflen ∧ t.len = s.len ∧ t.datain = s.datain ∧ t.digest = s.digest ∧
  t.dvalid = s.dvalid ∧ t.ill = s.ill ∧ t.pend = s.pend ∧ SamePort s t ∧ t.wait = s.wait ∧ t.draws = s.draws

/-- The same access made by another master. -/
def relabelAccess (f : Nat → Nat) (a : Access) : Access := { a with master := f a.master }

/-- The same input with another master. -/
def relabelInput (f : Nat → Nat) : Input → Input
  | .access a => .access (relabelAccess f a)
  | .resetAssert => .resetAssert
  | .resetRelease => .resetRelease
  | .quiet => .quiet

/-- The same state with every access, past, held or to come, made by another master. -/
def relabel (f : Nat → Nat) (s : State) : State :=
  { s with
    held := s.held.map (relabelAccess f)
    inputs := s.inputs.map (relabelInput f)
    responses := s.responses.map fun r => { r with access := relabelAccess f r.access } }

/-- Relabelling the state a step answers. -/
def relabelOutcome (f : Nat → Nat) : StepOutcome → StepOutcome
  | .next s => .next (relabel f s)
  | .fault r => .fault r
  | .refused r => .refused r

end Sys2Proof.Machine
end

