-- ==== Sys2Proof/Certificates/Slice0/Obligations.lean ====
section
/-! DEFINITION. The statements for the provers. Each docstring names the rules of spec/ it formalises; a clause that rests on a
choice of the model names its log entry. -/

open Sys2Proof Sys2Proof.Machine

/-! ### Encoding -/

/-- R59: the eight legal words, written out from the opcode map, decode to their commands. -/
def Obligations.CommandWordsDecode : Prop :=
  decode 0x00000000#32 = .ok .nop ∧ decode 0x00000001#32 = .ok .init ∧
  decode 0x00000002#32 = .ok (.update 0#3) ∧ decode 0x00000012#32 = .ok (.update 1#3) ∧
  decode 0x00000022#32 = .ok (.update 2#3) ∧ decode 0x00000032#32 = .ok (.update 3#3) ∧
  decode 0x00000042#32 = .ok (.update 4#3) ∧ decode 0x00000003#32 = .ok .finalize

/-- R60: a word is legal exactly when the formula holds, equivalently when it is one of the eight words. -/
def Obligations.LegalExactlyTheEightWords : Prop :=
  ∀ c : Word,
    ((∃ i, decode c = .ok i) ↔
      ((c.extractLsb' 0 4 = 0x0#4 ∨ c.extractLsb' 0 4 = 0x1#4 ∨ c.extractLsb' 0 4 = 0x3#4) ∧ c.extractLsb' 4 28 = 0#28) ∨
      (c.extractLsb' 0 4 = 0x2#4 ∧ (c.extractLsb' 4 3).toNat ≤ 4 ∧ c.extractLsb' 7 25 = 0#25)) ∧
    ((∃ i, decode c = .ok i) ↔
      c ∈ [0x00000000#32, 0x00000001#32, 0x00000003#32, 0x00000002#32, 0x00000012#32, 0x00000022#32, 0x00000032#32,
        0x00000042#32])

/-- R61, first sentence: the four ways a word is illegal, and the name the decoder gives each (the names are the model's). -/
def Obligations.IllegalWordsByCause : Prop :=
  ∀ c : Word,
    ((∃ e, decode c = .error e) ↔
      (4 ≤ (opField c).toNat ∨ rsvField c ≠ 0#25 ∨ (opField c = 0x2#4 ∧ 5 ≤ (nbField c).toNat) ∨
        ((opField c = 0x0#4 ∨ opField c = 0x1#4 ∨ opField c = 0x3#4) ∧ nbField c ≠ 0#3))) ∧
    (decode c = .error .reservedBits ↔ rsvField c ≠ 0#25) ∧
    (decode c = .error .reservedOp ↔ rsvField c = 0#25 ∧ 4 ≤ (opField c).toNat) ∧
    (decode c = .error .byteCount ↔ rsvField c = 0#25 ∧ opField c = 0x2#4 ∧ 5 ≤ (nbField c).toNat)

/-- R57 to R60: decoding an encoded well-formed command gives it back, and a word that decodes is the encoding of the
well-formed command it decodes to. -/
def Obligations.DecodeEncodeAgree : Prop :=
  (∀ i : Instr, i.wf = true → decode (encode i) = .ok i) ∧
  (∀ (c : Word) (i : Instr), decode c = .ok i → i.wf = true ∧ encode i = c)

/-! ### The hash functions -/

/-- R66: bit i of rotl(x, n) is bit (i − n mod 32) mod 32 of x, so the count is taken mod 32, 0 and all-ones are
fixed. -/
def Obligations.RotlMovesBits : Prop :=
  ∀ (x : Word) (n : Nat),
    (∀ i, i < 32 → (rotl x n).getLsbD i = x.getLsbD ((i + 32 - n % 32) % 32)) ∧
    rotl x n = rotl x (n % 32) ∧ rotl x 0 = x ∧ rotl x 32 = x ∧ rotl x 36 = rotl x 4 ∧
    rotl 0x00000000#32 n = 0x00000000#32 ∧ rotl 0xFFFFFFFF#32 n = 0xFFFFFFFF#32

/-- R67, R68: the formulas of P0 and P1, and what they say of each bit: the exclusive or of three bits of x. -/
def Obligations.PermutationBits : Prop :=
  ∀ (x : Word) (i : Nat), i < 32 →
    p0 x = x ^^^ rotl x 9 ^^^ rotl x 17 ∧ p1 x = x ^^^ rotl x 15 ^^^ rotl x 23 ∧
    (p0 x).getLsbD i = ((x.getLsbD i ^^ x.getLsbD ((i + 23) % 32)) ^^ x.getLsbD ((i + 15) % 32)) ∧
    (p1 x).getLsbD i = ((x.getLsbD i ^^ x.getLsbD ((i + 17) % 32)) ^^ x.getLsbD ((i + 9) % 32))

/-- R69: the laws of rotl, P0 and P1. -/
def Obligations.PermutationLaws : Prop :=
  ∀ (x y : Word) (a b : Nat),
    rotl (rotl x a) b = rotl x (a + b) ∧ rotl (x ^^^ y) a = rotl x a ^^^ rotl y a ∧
    p0 (x ^^^ y) = p0 x ^^^ p0 y ∧ p1 (x ^^^ y) = p1 x ^^^ p1 y ∧ p0 0#32 = 0#32 ∧ p1 0#32 = 0#32 ∧
    p0 (rotl x a) = rotl (p0 x) a ∧ p1 (rotl x a) = rotl (p1 x) a

/-- R71, R72, R73: W is the sixteen big-endian words and then the recurrence; W′[i] = W[i] ⊕ W[i+4]. -/
def Obligations.ExpansionSchedule : Prop :=
  ∀ b : Block,
    (∀ (i : Nat) (h : i < 16), (expandW b)[i] = be32 b[4 * i] b[4 * i + 1] b[4 * i + 2] b[4 * i + 3]) ∧
    (∀ (i : Nat) (h : 16 ≤ i ∧ i < 68),
      (expandW b)[i] =
        p1 ((expandW b)[i - 16] ^^^ (expandW b)[i - 9] ^^^ rotl ((expandW b)[i - 3]) 15)
          ^^^ rotl ((expandW b)[i - 13]) 7 ^^^ (expandW b)[i - 6]) ∧
    (∀ (i : Nat) (h : i < 64), (expandWPrime (expandW b))[i] = (expandW b)[i] ^^^ (expandW b)[i + 4])

/-- R70, corner cases: the expansion is linear over exclusive or, and the all-zero block expands to zeros. -/
def Obligations.ExpansionIsLinear : Prop :=
  ∀ b c : Block,
    expandW (Vector.zipWith (· ^^^ ·) b c) = Vector.zipWith (· ^^^ ·) (expandW b) (expandW c) ∧
    expandWPrime (expandW (Vector.zipWith (· ^^^ ·) b c)) =
      Vector.zipWith (· ^^^ ·) (expandWPrime (expandW b)) (expandWPrime (expandW c)) ∧
    expandW (Vector.replicate 64 0#8) = Vector.replicate 68 0#32 ∧
    expandWPrime (Vector.replicate 68 0#32) = Vector.replicate 64 0#32

/-- R76: the constant and its rotation count in the three ranges of j, with the rule's own values. -/
def Obligations.RoundConstants : Prop :=
  (∀ j, j ≤ 15 → roundConstant j = rotl 0x79CC4519#32 j) ∧
  (∀ j, 16 ≤ j → j ≤ 31 → roundConstant j = rotl 0x7A879D8A#32 j) ∧
  (∀ j, 32 ≤ j → j ≤ 63 → roundConstant j = rotl 0x7A879D8A#32 (j - 32)) ∧
  roundConstant 0 = 0x79CC4519#32 ∧ roundConstant 1 = 0xF3988A32#32 ∧ roundConstant 15 = 0x228CBCE6#32 ∧
  roundConstant 16 = 0x9D8A7A87#32 ∧ roundConstant 32 = 0x7A879D8A#32 ∧ roundConstant 31 = 0x3D43CEC5#32 ∧
  roundConstant 63 = 0x3D43CEC5#32

/-- R77: for j ≤ 15 both functions are the parity of the three bits; from j = 16 FF is their majority and GG chooses y or z by
x. -/
def Obligations.BooleanFunctionBits : Prop :=
  ∀ (j : Nat) (x y z : Word) (i : Nat), i < 32 →
    (j ≤ 15 →
      (ff j x y z).getLsbD i = ((x.getLsbD i ^^ y.getLsbD i) ^^ z.getLsbD i) ∧
      (gg j x y z).getLsbD i = ((x.getLsbD i ^^ y.getLsbD i) ^^ z.getLsbD i)) ∧
    (16 ≤ j →
      (ff j x y z).getLsbD i = (if x.getLsbD i = y.getLsbD i then x.getLsbD i else z.getLsbD i) ∧
      (gg j x y z).getLsbD i = (if x.getLsbD i = true then y.getLsbD i else z.getLsbD i))

/-- R78: one round, its eight results written out; TT1 uses W′[j] and TT2 uses W[j]. -/
def Obligations.RoundFunction : Prop :=
  ∀ (j : Nat) (r : Work) (w wPrime : Word),
    let ss1 := rotl (rotl r.a 12 + r.e + roundConstant j) 7
    let ss2 := ss1 ^^^ rotl r.a 12
    let tt1 := ff j r.a r.b r.c + r.d + ss2 + wPrime
    let tt2 := gg j r.e r.f r.g + r.h + ss1 + w
    round j r w wPrime = ⟨tt1, r.a, rotl r.b 9, r.c, p0 tt2, r.e, rotl r.f 19, r.g⟩

/-- R79, R80: CF runs rounds 0 to 63 once each, in order, from V, with W[j] and W′[j] of the block, and exclusive-ors the result
into V. -/
def Obligations.CompressionRunsSixtyFourRounds : Prop :=
  ∀ (v : Vector Word 8) (b : Block),
    ∃ reg : Nat → Work,
      reg 0 = ⟨v[0], v[1], v[2], v[3], v[4], v[5], v[6], v[7]⟩ ∧
      (∀ (j : Nat) (h : j < 64),
        reg (j + 1) = round j (reg j) ((expandW b)[j]) ((expandW b)[j] ^^^ (expandW b)[j + 4])) ∧
      cf v b =
        #v[v[0] ^^^ (reg 64).a, v[1] ^^^ (reg 64).b, v[2] ^^^ (reg 64).c, v[3] ^^^ (reg 64).d,
           v[4] ^^^ (reg 64).e, v[5] ^^^ (reg 64).f, v[6] ^^^ (reg 64).g, v[7] ^^^ (reg 64).h]

/-- R79's corner case and example, from the spec's table of CF values: the zero block and the padded "abc" block, from
IV. -/
def Obligations.CompressionKnownAnswers : Prop :=
  cf iv (Vector.replicate 64 0#8) =
    #v[0xA1203A40#32, 0x4A5566CD#32, 0x536FCEE8#32, 0x20DF7E13#32,
       0x35C58F56#32, 0xB7C4C62E#32, 0x813C32CC#32, 0x47BF9B6C#32] ∧
  cf iv (firstBlock (pad [0x61#8, 0x62#8, 0x63#8] 3#64)) =
    #v[0x66C7F0F4#32, 0x62EEEDD9#32, 0xD1F2D46B#32, 0xDC10E4E2#32,
       0x4167C487#32, 0x5CF2F7A2#32, 0x297DA02B#32, 0x8F4BA8E0#32]

/-- R88: the padded tail written out, its zero count (the least with (L + 1 + k) mod 64 = 56), its last eight bytes (byte r of
the field is bits 63−8r : 56−8r of (8·L) mod 2^64) and its length, 64 or 128 bytes. -/
def Obligations.PadLayout : Prop :=
  ∀ (t : List Byte) (l : BitVec 64), t.length = l.toNat % 64 →
    ∃ k : Nat,
      pad t l = t ++ [0x80#8] ++ List.replicate k 0#8 ++ be64bytes (BitVec.ofNat 64 (8 * l.toNat)) ∧
      (pad t l).length = t.length + 1 + k + 8 ∧
      (∀ r, r < 8 → (pad t l)[t.length + 1 + k + r]? =
        some ((BitVec.ofNat 64 (8 * l.toNat)).extractLsb' (56 - 8 * r) 8)) ∧
      (l.toNat + 1 + k) % 64 = 56 ∧ (∀ k', (l.toNat + 1 + k') % 64 = 56 → k ≤ k') ∧
      (t.length ≤ 55 → k = 55 - t.length ∧ (pad t l).length = 64) ∧
      (56 ≤ t.length → k = 119 - t.length ∧ (pad t l).length = 128)

/-- R90: the digest has 32 bytes, and byte 4i + r is DIGEST[i][31−8r : 24−8r]. -/
def Obligations.DigestSerialization : Prop :=
  ∀ d : Vector Word 8,
    (digestBytes d).length = 32 ∧
    ∀ (i r : Nat) (h : i < 8), r < 4 → (digestBytes d)[4 * i + r]? = some (d[i].extractLsb' (24 - 8 * r) 8)

/-- R46: byte k of DATAIN is DATAIN[31−8k : 24−8k], an UPDATE of n bytes uses the first n, and four bytes packed so are read
back as the word, as block words are. -/
def Obligations.DatainPacking : Prop :=
  ∀ d : Word,
    (∀ k, k < 4 → (datainBytes d)[k]? = some (d.extractLsb' (24 - 8 * k) 8)) ∧
    (∀ nb : BitVec 3, nb.toNat ≤ 4 →
      (updateChunk nb d).length = nb.toNat ∧ ∀ k, k < nb.toNat → (updateChunk nb d)[k]? = (datainBytes d)[k]?) ∧
    be32 (d.extractLsb' 24 8) (d.extractLsb' 16 8) (d.extractLsb' 8 8) (d.extractLsb' 0 8) = d

/-! ### The commands -/

/-- R84: NOP completes from every state and changes nothing; OP 0 with any nonzero bit above it is illegal. -/
def Obligations.NopCompletesUnchanged : Prop :=
  decode 0x00000000#32 = .ok .nop ∧
  (∀ s : State, exec .nop s = .next s) ∧
  (∀ c : Word, c.extractLsb' 0 4 = 0x0#4 → c.extractLsb' 4 28 ≠ 0#28 → ∃ e, decode c = .error e)

/-- R85: INIT completes from every state with the `new()` context; DATAIN, DIGEST and everything else keep their
values. -/
def Obligations.InitCompletesWithFreshContext : Prop :=
  decode 0x00000001#32 = .ok .init ∧
  ∀ s : State, ∃ t, exec .init s = .next t ∧
    t.v = iv ∧ t.buflen = 0#6 ∧ t.tail = [] ∧ t.len = 0#64 ∧ t.dvalid = false ∧ t.ill = false ∧
    t.datain = s.datain ∧ t.digest = s.digest ∧ t.pend = s.pend ∧ t.scratch = s.scratch ∧ SamePort s t ∧
    (s.pend = none → statusWord t = 0x00000000#32) ∧
    (s = State.reset →
      statusWord t = statusWord s ∧ t.v = s.v ∧ t.len = s.len ∧ t.tail = s.tail ∧ t.dvalid = s.dvalid ∧ t.ill = s.ill)

/-- R86, UPDATE 0 to 4, the counts a legal word can carry. UPDATE 0 completes from every state and changes nothing. UPDATE n,
n = 1..4, completes from every state: LEN grows by n mod 2^64 and DVALID is 0; the buffered bytes and the chunk are kept whole if
there are fewer than 64, else CF takes the first 64 into V and the rest is kept: a block is compressed exactly when
BUFLEN + n ≥ 64. DATAIN, DIGEST, ILL and the port are unchanged. -/
def Obligations.UpdateSuppliesBytes : Prop :=
  (∀ s : State, exec (.update 0#3) s = .next s) ∧
  (∀ (s : State) (nb : BitVec 3), 1 ≤ nb.toNat → nb.toNat ≤ 4 →
    ∃ t, exec (.update nb) s = .next t ∧
      t.len.toNat = (s.len.toNat + nb.toNat) % 2 ^ 64 ∧ t.dvalid = false ∧
      (s.buflen.toNat + nb.toNat < 64 →
        t.v = s.v ∧ t.tail = s.tail ++ (datainBytes s.datain).take nb.toNat ∧
        t.buflen.toNat = s.buflen.toNat + nb.toNat ∧ t.scratch = s.scratch) ∧
      (64 ≤ s.buflen.toNat + nb.toNat →
        t.v = cf s.v (firstBlock (s.tail ++ (datainBytes s.datain).take nb.toNat)) ∧
        t.tail = (s.tail ++ (datainBytes s.datain).take nb.toNat).drop 64 ∧
        t.buflen.toNat = s.buflen.toNat + nb.toNat - 64) ∧
      t.datain = s.datain ∧ t.digest = s.digest ∧ t.ill = s.ill ∧ t.pend = s.pend ∧ SamePort s t)

/-- The model's reading (log entry 10) of R61, R83 and R99 for the three byte counts no legal word carries: exec of the constructor
UPDATE 5, 6 or 7, which no command word decodes to, completes with the illegal command's one effect, ILL. -/
def Obligations.UpdateBeyondFourOnlySetsIll : Prop :=
  ∀ (s : State) (nb : BitVec 3), 5 ≤ nb.toNat →
    exec (.update nb) s = .next { s with ill := true } ∧ ∀ c : Word, decode c ≠ .ok (.update nb)

/-- R89: FINALIZE completes from every state and writes DIGEST and DVALID only (the hidden scratch state apart). From a state
with BUFLEN = LEN mod 64 (R17) the digest is one CF over the padded tail when BUFLEN ≤ 55, two when BUFLEN ≥ 56, on a copy of
V. -/
def Obligations.FinalizeWritesDigestOnly : Prop :=
  decode 0x00000003#32 = .ok .finalize ∧
  ∀ s : State, ∃ t, exec .finalize s = .next t ∧
    t.dvalid = true ∧
    (s.len.toNat % 64 = s.buflen.toNat → s.buflen.toNat ≤ 55 →
      t.digest = cf s.v (firstBlock (pad s.tail s.len))) ∧
    (s.len.toNat % 64 = s.buflen.toNat → 56 ≤ s.buflen.toNat →
      t.digest = cf (cf s.v (firstBlock (pad s.tail s.len))) (firstBlock ((pad s.tail s.len).drop 64))) ∧
    t.v = s.v ∧ t.buf = s.buf ∧ t.buflen = s.buflen ∧ t.len = s.len ∧ t.datain = s.datain ∧ t.ill = s.ill ∧
    t.pend = s.pend ∧ SamePort s t

/-- R94: after INIT, any UPDATEs whose bytes are m, then FINALIZE, all of which complete, the digest bytes are SM3(m) and
DVALID is 1. -/
def Obligations.DigestIsSm3OfMessage : Prop :=
  ∀ (s : State) (cs : List Chunk), (∀ c ∈ cs, c.1.toNat ≤ 4) → (chunkBytes cs).length < 2 ^ 61 →
    ∃ t u w, exec .init s = .next t ∧ runUpdates cs t = .next u ∧ exec .finalize u = .next w ∧
      digestBytes w.digest = sm3 (chunkBytes cs) ∧ w.dvalid = true

/-- R95: after UPDATEs whose bytes are the same, V, the buffered bytes, BUFLEN and LEN are the same, whatever the chunks. -/
def Obligations.ChunkingInvariance : Prop :=
  ∀ (s : State) (cs ds : List Chunk), (∀ c ∈ cs, c.1.toNat ≤ 4) → (∀ d ∈ ds, d.1.toNat ≤ 4) →
    chunkBytes cs = chunkBytes ds →
    ∃ t u, runUpdates cs s = .next t ∧ runUpdates ds s = .next u ∧
      t.v = u.v ∧ t.tail = u.tail ∧ t.buflen = u.buflen ∧ t.len = u.len

/-- R96: UPDATEs of m, FINALIZE, FINALIZE again, UPDATEs of m′, FINALIZE: the first digest is SM3(m), the second FINALIZE writes
the same words, and the last digest is SM3(m ‖ m′); and from any state at all a FINALIZE changes no later digest. -/
def Obligations.FinalizeIsAPureQuery : Prop :=
  (∀ (s : State) (cs ds : List Chunk), (∀ c ∈ cs, c.1.toNat ≤ 4) → (∀ d ∈ ds, d.1.toNat ≤ 4) →
    (chunkBytes cs ++ chunkBytes ds).length < 2 ^ 61 →
    ∃ t u f f' w g,
      exec .init s = .next t ∧ runUpdates cs t = .next u ∧ exec .finalize u = .next f ∧
      digestBytes f.digest = sm3 (chunkBytes cs) ∧
      exec .finalize f = .next f' ∧ f'.digest = f.digest ∧
      runUpdates ds f' = .next w ∧ exec .finalize w = .next g ∧
      digestBytes g.digest = sm3 (chunkBytes cs ++ chunkBytes ds)) ∧
  (∀ (s : State) (cs : List Chunk), (∀ c ∈ cs, c.1.toNat ≤ 4) →
    ∃ f t u t' u',
      exec .finalize s = .next f ∧ runUpdates cs f = .next t ∧ exec .finalize t = .next u ∧
      runUpdates cs s = .next t' ∧ exec .finalize t' = .next u' ∧ u.digest = u'.digest)

/-! ### The port -/

/-- R45 and R25's layout: the fields of the STATUS word, reserved bits 0. -/
def Obligations.StatusWordFields : Prop :=
  ∀ s : State,
    (statusWord s).getLsbD 0 = s.pend.isSome ∧ (statusWord s).getLsbD 1 = s.dvalid ∧
    (statusWord s).getLsbD 2 = s.ill ∧ (statusWord s).extractLsb' 3 5 = 0#5 ∧
    (statusWord s).extractLsb' 8 6 = s.buflen ∧ (statusWord s).extractLsb' 14 18 = 0#18

/-- R45: a legal read that is not held (any with no command in flight, of STATUS also while one is) is answered with the
register's word and changes nothing; what time the command in flight still takes, and its scratch state, are left open. -/
def Obligations.ReadsAnswerAndChangeNothing : Prop :=
  ∀ (s : State) (m : Nat) (rest : List Input) (v : Word) (off : Nat) (x : Word),
    (Idle s ∨ (InFlight s ∧ off = 0x04)) → s.inputs = .access ⟨m, .read, Config.sm3Base + off, 4, v⟩ :: rest →
    ((off = 0x04 ∧
        x = (s.buflen.setWidth 32 <<< 8 ||| (BitVec.ofBool s.ill).setWidth 32 <<< 2 |||
          (BitVec.ofBool s.dvalid).setWidth 32 <<< 1 ||| (BitVec.ofBool s.pend.isSome).setWidth 32)) ∨
      (off = 0x08 ∧ x = s.datain) ∨
      (off = 0x10 ∧ x = s.len.extractLsb' 0 32) ∨
      (off = 0x14 ∧ x = s.len.extractLsb' 32 32) ∨
      (∃ i : Fin 8, off = 0x20 + 4 * i.val ∧ x = s.digest[i])) →
    ∃ n scr, (s.pend = none → n = s.wait ∧ scr = s.scratch) ∧
      step s = .next { s with
        inputs := rest
        responses := s.responses ++ [⟨⟨m, .read, Config.sm3Base + off, 4, v⟩, .data x⟩]
        wait := n
        scratch := scr }

/-- R47, R81: with no command in flight, a write of DATAIN stores the value and does nothing else, and a write of any word,
legal or not, to CMD puts it in flight (BUSY = 1) and changes no other element. -/
def Obligations.WritesStoreOrIssue : Prop :=
  ∀ (s : State) (m : Nat) (rest : List Input) (v : Word), Idle s →
    (s.inputs = .access ⟨m, .write, Config.sm3Base + 0x08, 4, v⟩ :: rest →
      step s = .next { s with
        datain := v
        inputs := rest
        responses := s.responses ++ [⟨⟨m, .write, Config.sm3Base + 0x08, 4, v⟩, .written⟩] }) ∧
    (s.inputs = .access ⟨m, .write, Config.sm3Base + 0x00, 4, v⟩ :: rest →
      ∃ t, step s = .next t ∧ t.pend = some v ∧ t.busy = true ∧ SameCore { s with pend := some v } t ∧
        t.scratch = s.scratch ∧
        t.rst = s.rst ∧ t.held = s.held ∧ t.inputs = rest ∧
        t.responses = s.responses ++ [⟨⟨m, .write, Config.sm3Base + 0x00, 4, v⟩, .written⟩])

/-- R41, R42 and R43's order: a malformed access to the window is answered with the error of the first check it fails, at once,
whether or not a command is in flight, and no element of R13 changes (R100); every other access to the window is legal. -/
def Obligations.MalformedAccessesAnsweredAtOnce : Prop :=
  (∀ (s : State) (a : Access) (rest : List Input) (off : Nat) (e : BusError),
    Receives a rest s → AtOffset a off →
    ((a.size ≠ 4 ∧ e = .beSize) ∨
      (a.size = 4 ∧ off % 4 ≠ 0 ∧ e = .beAlign) ∨
      (a.size = 4 ∧ (off = 0x0C ∨ off = 0x18 ∨ off = 0x1C) ∧ e = .beUnmapped) ∨
      (a.size = 4 ∧ a.kind = .read ∧ off = 0x00 ∧ e = .beDirection) ∨
      (a.size = 4 ∧ a.kind = .write ∧ (off = 0x04 ∨ off = 0x10 ∨ off = 0x14 ∨ (0x20 ≤ off ∧ off % 4 = 0)) ∧
        e = .beDirection)) →
    ∃ t, step s = .next t ∧ SameCore s t ∧ t.rst = s.rst ∧ t.held = s.held ∧ t.inputs = rest ∧
      t.responses = s.responses ++ [⟨a, .error e⟩]) ∧
  (∀ (kind : AccessKind) (off : Fin 64), off.val % 4 = 0 → off.val ≠ 0x0C → off.val ≠ 0x18 → off.val ≠ 0x1C →
    (kind = .read → off.val ≠ 0x00) → (kind = .write → off.val = 0x00 ∨ off.val = 0x08) →
    ∃ op, busCheck kind off 4 = .ok op)

/-- R44 and R26: while a command is in flight a legal access other than a STATUS read is held behind those held before it: not
answered, nothing done; a STATUS read is answered at once, with BUSY = 1 and the other fields as before the command. The last
clause is the model's reading of R43, R44 and R50 (log entry 8): with no command in flight and an access held, the first one
held is performed before any input is taken, a STATUS read or a malformed access included, the others staying in order; it is
answered as if it had just been delivered. -/
def Obligations.BusyHoldsLegalAccesses : Prop :=
  (∀ (s : State) (a : Access) (rest : List Input), s.inputs = .access a :: rest → InFlight s → ordinary a = true →
    ∃ t, step s = .next t ∧ SameCore s t ∧ t.rst = s.rst ∧ t.held = s.held ++ [a] ∧ t.inputs = rest ∧
      t.responses = s.responses) ∧
  (∀ (s : State) (m : Nat) (v : Word) (rest : List Input),
    s.inputs = .access ⟨m, .read, Config.sm3Base + 0x04, 4, v⟩ :: rest → InFlight s →
    ∃ t x, step s = .next t ∧ SameCore s t ∧ t.rst = s.rst ∧ t.held = s.held ∧ t.inputs = rest ∧
      t.responses = s.responses ++ [⟨⟨m, .read, Config.sm3Base + 0x04, 4, v⟩, .data x⟩] ∧
      x.getLsbD 0 = true ∧ x.getLsbD 1 = s.dvalid ∧ x.getLsbD 2 = s.ill ∧ x.extractLsb' 8 6 = s.buflen) ∧
  (∀ (s : State) (a : Access) (rest : List Access),
    s.rst = false → s.pend = none → s.held = a :: rest → resetNext s = false → ordinary a = true →
    ∃ t u r, step s = .next t ∧ step { s with held := [], inputs := .access a :: s.inputs } = .next u ∧
      t = { u with held := rest } ∧ t.inputs = s.inputs ∧ t.responses = s.responses ++ [⟨a, r⟩])

/-- The model's reading of R55 (log entry 6): an access outside the window is none of this core's, which neither answers it nor
changes. -/
def Obligations.AccessesOutsideTheWindowPass : Prop :=
  ∀ (s : State) (a : Access) (rest : List Input), Receives a rest s →
    (a.addr < Config.sm3Base ∨ Config.sm3Base + 64 ≤ a.addr) →
    ∃ t, step s = .next t ∧ SameCore s t ∧ t.rst = s.rst ∧ t.held = s.held ∧ t.inputs = rest ∧
      t.responses = s.responses

/-- R107: every access behaves the same whatever master makes it: a step of the machine with its accesses made by other masters
is the step relabelled. -/
def Obligations.MastersAreAlike : Prop :=
  ∀ (f : Nat → Nat) (s : State), step (relabel f s) = relabelOutcome f (step s)

/-! ### Steps -/

/-- R82, R83: when the command in flight commits and its word decodes to i, the step is exec of i on the state with PEND
cleared; and a word placed by withFetchWord is such a command, in every state. -/
def Obligations.StepRunsTheDecodedCommand : Prop :=
  (∀ (s : State) (c : Word) (i : Instr), Commits c s → decode c = .ok i →
    step s = exec i { s with pend := none }) ∧
  (∀ (s : State) (nbits w : Nat) (i : Instr), decodeTableWord nbits w = some i →
    step (s.withFetchWord nbits w) =
      exec i { s with pend := none, wait := 0, rst := false, inputs := dropResets s.inputs })

/-- R99: the commit of an illegal word sets ILL and clears PEND; every other element keeps its value. -/
def Obligations.IllegalCommandSetsIllOnly : Prop :=
  ∀ (s : State) (c : Word) (e : DecodeError), Commits c s → decode c = .error e →
    ∃ t, step s = .next t ∧ t.ill = true ∧ t.pend = none ∧
      t.v = s.v ∧ t.buf = s.buf ∧ t.buflen = s.buflen ∧ t.len = s.len ∧ t.datain = s.datain ∧ t.digest = s.digest ∧
      t.dvalid = s.dvalid ∧ t.scratch = s.scratch ∧ SamePort s t

/-- R30: ILL over every step: the commit of an illegal word sets it, INIT's commit and reset clear it, and no other step
changes it; and ILL stops nothing: where a step is made with one value of it, one is made with the other. -/
def Obligations.IllChangesOnlyByItsRule : Prop :=
  ∀ s t : State, step s = .next t →
    (∀ c e, Commits c s → decode c = .error e → t.ill = true) ∧
    (∀ c, Commits c s → decode c = .ok .init → t.ill = false) ∧
    (s.rst = true ∨ resetNext s = true → t.ill = false) ∧
    ((∀ c, Commits c s → decode c ≠ .ok .init ∧ ∀ e, decode c ≠ .error e) → s.rst = false → resetNext s = false →
      t.ill = s.ill) ∧
    ∀ b : Bool, ∃ u, step { s with ill := b } = .next u

/-- R29: DVALID over every step: FINALIZE's commit sets it, INIT's commit and reset clear it, UPDATE's commit clears it when
NB ≥ 1 and leaves it when NB = 0, and no other step changes it. -/
def Obligations.DvalidChangesOnlyByItsRule : Prop :=
  ∀ s t : State, step s = .next t →
    (∀ c, Commits c s → decode c = .ok .finalize → t.dvalid = true) ∧
    (∀ c, Commits c s → decode c = .ok .init → t.dvalid = false) ∧
    (∀ c nb, Commits c s → decode c = .ok (.update nb) → nb ≠ 0#3 → t.dvalid = false) ∧
    (∀ c, Commits c s → decode c = .ok (.update 0#3) → t.dvalid = s.dvalid) ∧
    (∀ c, Commits c s → decode c = .ok .nop → t.dvalid = s.dvalid) ∧
    (∀ c e, Commits c s → decode c = .error e → t.dvalid = s.dvalid) ∧
    (s.rst = true ∨ resetNext s = true → t.dvalid = false) ∧
    ((∀ c, ¬ Commits c s) → s.rst = false → resetNext s = false → t.dvalid = s.dvalid)

/-- R14: V over every step: it stays, or a block passed to CF by the commit of an UPDATE replaces it, or it is IV by the commit
of INIT or by reset. -/
def Obligations.ChainingStateChangesByWholeBlocks : Prop :=
  ∀ s t : State, step s = .next t →
    t.v = s.v ∨
    (∃ c nb b, Commits c s ∧ decode c = .ok (.update nb) ∧ t.v = cf s.v b) ∨
    (t.v = iv ∧ (s.rst = true ∨ resetNext s = true ∨ ∃ c, Commits c s ∧ decode c = .ok .init))

/-- R18, R19, R20, R15, R16, R23, R28: outside reset LEN changes only by an UPDATE's commit, which adds its byte count, and by
INIT's; DATAIN only by the performance of a write of it (of an access held or delivered); DIGEST only by FINALIZE's commit;
BUFLEN and the buffered bytes only by the commit of an UPDATE or, to none, of INIT; PEND becomes a word only by the performance of
a write of that word to CMD with no command in flight and none only by a commit, which always makes it none; BUSY is 1 exactly
when PEND is not none. -/
def Obligations.RegistersChangeOnlyByTheirWriters : Prop :=
  ∀ s t : State, step s = .next t → s.rst = false → resetNext s = false →
    (t.len = s.len ∨ (∃ c nb, Commits c s ∧ decode c = .ok (.update nb) ∧ t.len = s.len + nb.setWidth 64) ∨
      (∃ c, Commits c s ∧ decode c = .ok .init ∧ t.len = 0#64)) ∧
    (t.datain = s.datain ∨ ∃ a, MayPerformWrite a 0x08 s ∧ t.datain = a.value) ∧
    (t.digest = s.digest ∨ ∃ c, Commits c s ∧ decode c = .ok .finalize) ∧
    ((t.buflen = s.buflen ∧ t.tail = s.tail) ∨ (∃ c nb, Commits c s ∧ decode c = .ok (.update nb)) ∨
      (∃ c, Commits c s ∧ decode c = .ok .init ∧ t.buflen = 0#6 ∧ t.tail = [])) ∧
    (t.pend = s.pend ∨ (∃ a, MayPerformWrite a 0x00 s ∧ t.pend = some a.value) ∨
      (t.pend = none ∧ ∃ c, Commits c s)) ∧
    (∀ c, Commits c s → t.pend = none) ∧ (t.busy = true ↔ t.pend ≠ none)

/-- R113: asserting reset with no access held puts every element at its reset value and discards the command in flight, and
so does a step while it is asserted and the release; an access to the core while it is asserted has no step, nor has reset
asserted while an access is held. -/
def Obligations.ResetGivesTheResetValues : Prop :=
  (∀ (s : State) (rest : List Input), s.rst = false → s.inputs = .resetAssert :: rest → s.held = [] →
    ∃ t, step s = .next t ∧ t.rst = true ∧ t.inputs = rest ∧
      t.v = iv ∧ t.buflen = 0#6 ∧ t.len = 0#64 ∧ t.datain = 0#32 ∧ t.digest = Vector.replicate 8 0#32 ∧
      t.busy = false ∧ t.dvalid = false ∧ t.ill = false ∧ t.pend = none) ∧
  (∀ (s : State), s.rst = true → ResetQuiet s →
    ∃ t, step s = .next t ∧ (t.rst = false ↔ s.inputs.head? = some .resetRelease) ∧
      t.v = iv ∧ t.buflen = 0#6 ∧ t.len = 0#64 ∧ t.datain = 0#32 ∧ t.digest = Vector.replicate 8 0#32 ∧
      t.busy = false ∧ t.dvalid = false ∧ t.ill = false ∧ t.pend = none) ∧
  (∀ (s : State) (a : Access) (rest : List Input) (off : Nat), s.rst = true → s.inputs = .access a :: rest →
    AtOffset a off → step s = .fault .accessDuringReset) ∧
  (∀ (s : State) (rest : List Input), s.rst = false → s.inputs = .resetAssert :: rest → s.held ≠ [] →
    step s = .fault .resetNotQuiet)

/-- R37: the values of the state after reset that the spec gives. -/
def Obligations.ResetStateValues : Prop :=
  State.reset.v = iv ∧ State.reset.buflen = 0#6 ∧ State.reset.len = 0#64 ∧ State.reset.datain = 0#32 ∧
  (∀ (i : Nat) (h : i < 8), State.reset.digest[i] = 0#32) ∧ State.reset.busy = false ∧ State.reset.dvalid = false ∧
  State.reset.ill = false ∧ State.reset.pend = none

/-- R114: on V, BUFLEN, LEN, DVALID and ILL reset and INIT have the same effect; reset also clears DATAIN, DIGEST, BUSY and PEND,
which INIT leaves alone. -/
def Obligations.ResetAndInitAgree : Prop :=
  ∀ (s : State) (rest : List Input), s.rst = false → s.inputs = .resetAssert :: rest → s.held = [] →
    ∃ t r, exec .init s = .next t ∧ step s = .next r ∧
      t.v = r.v ∧ t.buflen = r.buflen ∧ t.len = r.len ∧ t.dvalid = r.dvalid ∧ t.ill = r.ill ∧
      t.datain = s.datain ∧ t.digest = s.digest ∧ t.busy = s.busy ∧ t.pend = s.pend ∧
      r.datain = 0#32 ∧ r.digest = Vector.replicate 8 0#32 ∧ r.busy = false ∧ r.pend = none

/-- R112, R115: an idle core with nothing delivered, or in a step in which nothing arrives, keeps its state, and so it does when
reset is released that was not asserted (the model's reading: log entry 12); after reset it takes the first legal access, a
STATUS read or another, at once and answers it with no error. -/
def Obligations.IdleCoreKeepsItsState : Prop :=
  (∀ s : State, Idle s →
    (s.inputs = [] → step s = .next s) ∧
    (∀ rest, s.inputs = .quiet :: rest → step s = .next { s with inputs := rest }) ∧
    (∀ rest, s.inputs = .resetRelease :: rest → step s = .next { s with inputs := rest })) ∧
  (∀ a : Access, LegalAccess a →
    ∃ t r, step (deliver [a] State.reset) = .next t ∧ t.responses = [⟨a, r⟩] ∧ ∀ e, r ≠ .error e)

/-! ### The whole machine -/

/-- R17 and R25's meaning of DVALID: the invariant of the machine holds after every step from every state in which it holds. -/
def Obligations.EveryStepKeepsTheInvariant : Prop :=
  ∀ s t : State, Inv s → step s = .next t → Inv t

/-- R17: the invariant holds at reset. -/
def Obligations.ResetMeetsTheInvariant : Prop := Inv State.reset

/-- R98, R12: a step is stopped only where RESET_QUIET (R113) is broken: from every other state it gives a next state, and it is
never refused. -/
def Obligations.OnlyABrokenResetStopsTheMachine : Prop :=
  (∀ s : State, (∃ t, step s = .next t) ↔ ResetQuiet s) ∧ (∀ (s : State) (r : Refusal), step s ≠ .refused r)

/-- R38: no step depends on the cells of BUF at or above BUFLEN or on the scratch state: two states that differ only there step
alike, to states that differ only there. -/
def Obligations.UnspecifiedStateIsNeverRead : Prop :=
  ∀ s t : State, AgreeOnSpecified s t →
    (∃ s' t', step s = .next s' ∧ step t = .next t' ∧ AgreeOnSpecified s' t') ∨
    (∃ f, step s = .fault f ∧ step t = .fault f)

/-- R82, R123: every command in flight, no reset coming, reaches its commit after finitely many steps, whatever LATENCY drew and
whatever the host does meanwhile; until then no element of R13 changes, and the commit ends the flight. -/
def Obligations.EveryAcceptedCommandCommits : Prop :=
  ∀ (s : State) (c : Word), s.rst = false → s.pend = some c → (∀ i ∈ s.inputs, i ≠ .resetAssert) →
    ∃ t u, core.run s.wait s = .next t ∧ Commits c t ∧ SameCore s t ∧
      step t = commit c t ∧ step t = .next u ∧ u.pend = none

/-- R82's consequence: apart from STATUS reads that return BUSY = 1 the host sees, and the core ends with, exactly what it would
if each command executed at the moment its CMD write was accepted, whatever LATENCY is. The accesses R44 may hold get the same
answers in the same order; STATUS reads and malformed accesses, which overtake held ones, get the same answers in their own order,
but for the STATUS reads that show BUSY = 1. Where accesses are held as BUSY falls, it rests on log entry 8. -/
def Obligations.CommandsLookAtomic : Prop :=
  ∀ (s : State) (as : List Access), Idle s → s.inputs = [] →
    ∃ k t u, core.run k (deliver as s) = .next t ∧ Idle t ∧ t.inputs = [] ∧
      runAtomic as s = .next u ∧ ordinaryResponses t = ordinaryResponses u ∧
      List.Forall₂ SameButBusy (promptResponses t) (promptResponses u) ∧ { t with responses := [] } = { u with responses := [] }

/-- R93, R94: the host program HASH, run from any idle state on any message of fewer than 2^61 bytes, comes to an end, and the
eight words it reads last are the digest SM3(m). -/
def Obligations.HashProgramReadsSm3 : Prop :=
  ∀ (s : State) (master : Nat) (m : List Byte), Idle s → s.inputs = [] → m.length < 2 ^ 61 →
    ∃ k t, core.run k (deliver (programAccesses master (hashProgram m)) s) = .next t ∧ Idle t ∧ t.inputs = [] ∧
      t.dvalid = true ∧ ∃ ws, readWords t.responses = readWords s.responses ++ ws ∧ ws.length = 8 ∧
        digestOfReads ws = sm3 m
end

