-- ==== Sys2Proof/Laws/State.lean ====
section
/-! SUPPORT. One lemma per field per named update of State, so that no later proof unfolds a record update. BUSY and the
buffered tail are read through `busy` and `tail` in the same way. -/

namespace Sys2Proof.Machine

@[simp] theorem recordIllegal_v (s : State) : (recordIllegal s).v = s.v := rfl
@[simp] theorem recordIllegal_buf (s : State) : (recordIllegal s).buf = s.buf := rfl
@[simp] theorem recordIllegal_buflen (s : State) : (recordIllegal s).buflen = s.buflen := rfl
@[simp] theorem recordIllegal_len (s : State) : (recordIllegal s).len = s.len := rfl
@[simp] theorem recordIllegal_datain (s : State) : (recordIllegal s).datain = s.datain := rfl
@[simp] theorem recordIllegal_digest (s : State) : (recordIllegal s).digest = s.digest := rfl
@[simp] theorem recordIllegal_dvalid (s : State) : (recordIllegal s).dvalid = s.dvalid := rfl
@[simp] theorem recordIllegal_ill (s : State) : (recordIllegal s).ill = true := rfl
@[simp] theorem recordIllegal_pend (s : State) : (recordIllegal s).pend = s.pend := rfl
@[simp] theorem recordIllegal_scratch (s : State) : (recordIllegal s).scratch = s.scratch := rfl
@[simp] theorem recordIllegal_rst (s : State) : (recordIllegal s).rst = s.rst := rfl
@[simp] theorem recordIllegal_held (s : State) : (recordIllegal s).held = s.held := rfl
@[simp] theorem recordIllegal_inputs (s : State) : (recordIllegal s).inputs = s.inputs := rfl
@[simp] theorem recordIllegal_responses (s : State) : (recordIllegal s).responses = s.responses := rfl
@[simp] theorem recordIllegal_wait (s : State) : (recordIllegal s).wait = s.wait := rfl
@[simp] theorem recordIllegal_draws (s : State) : (recordIllegal s).draws = s.draws := rfl
@[simp] theorem recordIllegal_busy (s : State) : (recordIllegal s).busy = s.busy := rfl
@[simp] theorem recordIllegal_tail (s : State) : (recordIllegal s).tail = s.tail := rfl

@[simp] theorem clearDvalid_v (s : State) : (clearDvalid s).v = s.v := rfl
@[simp] theorem clearDvalid_buf (s : State) : (clearDvalid s).buf = s.buf := rfl
@[simp] theorem clearDvalid_buflen (s : State) : (clearDvalid s).buflen = s.buflen := rfl
@[simp] theorem clearDvalid_len (s : State) : (clearDvalid s).len = s.len := rfl
@[simp] theorem clearDvalid_datain (s : State) : (clearDvalid s).datain = s.datain := rfl
@[simp] theorem clearDvalid_digest (s : State) : (clearDvalid s).digest = s.digest := rfl
@[simp] theorem clearDvalid_dvalid (s : State) : (clearDvalid s).dvalid = false := rfl
@[simp] theorem clearDvalid_ill (s : State) : (clearDvalid s).ill = s.ill := rfl
@[simp] theorem clearDvalid_pend (s : State) : (clearDvalid s).pend = s.pend := rfl
@[simp] theorem clearDvalid_scratch (s : State) : (clearDvalid s).scratch = s.scratch := rfl
@[simp] theorem clearDvalid_rst (s : State) : (clearDvalid s).rst = s.rst := rfl
@[simp] theorem clearDvalid_held (s : State) : (clearDvalid s).held = s.held := rfl
@[simp] theorem clearDvalid_inputs (s : State) : (clearDvalid s).inputs = s.inputs := rfl
@[simp] theorem clearDvalid_responses (s : State) : (clearDvalid s).responses = s.responses := rfl
@[simp] theorem clearDvalid_wait (s : State) : (clearDvalid s).wait = s.wait := rfl
@[simp] theorem clearDvalid_draws (s : State) : (clearDvalid s).draws = s.draws := rfl
@[simp] theorem clearDvalid_busy (s : State) : (clearDvalid s).busy = s.busy := rfl
@[simp] theorem clearDvalid_tail (s : State) : (clearDvalid s).tail = s.tail := rfl

@[simp] theorem addLength_v (nb : BitVec 3) (s : State) : (addLength nb s).v = s.v := rfl
@[simp] theorem addLength_buf (nb : BitVec 3) (s : State) : (addLength nb s).buf = s.buf := rfl
@[simp] theorem addLength_buflen (nb : BitVec 3) (s : State) : (addLength nb s).buflen = s.buflen := rfl
@[simp] theorem addLength_len (nb : BitVec 3) (s : State) : (addLength nb s).len = s.len + nb.setWidth 64 := rfl
@[simp] theorem addLength_datain (nb : BitVec 3) (s : State) : (addLength nb s).datain = s.datain := rfl
@[simp] theorem addLength_digest (nb : BitVec 3) (s : State) : (addLength nb s).digest = s.digest := rfl
@[simp] theorem addLength_dvalid (nb : BitVec 3) (s : State) : (addLength nb s).dvalid = s.dvalid := rfl
@[simp] theorem addLength_ill (nb : BitVec 3) (s : State) : (addLength nb s).ill = s.ill := rfl
@[simp] theorem addLength_pend (nb : BitVec 3) (s : State) : (addLength nb s).pend = s.pend := rfl
@[simp] theorem addLength_scratch (nb : BitVec 3) (s : State) : (addLength nb s).scratch = s.scratch := rfl
@[simp] theorem addLength_rst (nb : BitVec 3) (s : State) : (addLength nb s).rst = s.rst := rfl
@[simp] theorem addLength_held (nb : BitVec 3) (s : State) : (addLength nb s).held = s.held := rfl
@[simp] theorem addLength_inputs (nb : BitVec 3) (s : State) : (addLength nb s).inputs = s.inputs := rfl
@[simp] theorem addLength_responses (nb : BitVec 3) (s : State) : (addLength nb s).responses = s.responses := rfl
@[simp] theorem addLength_wait (nb : BitVec 3) (s : State) : (addLength nb s).wait = s.wait := rfl
@[simp] theorem addLength_draws (nb : BitVec 3) (s : State) : (addLength nb s).draws = s.draws := rfl
@[simp] theorem addLength_busy (nb : BitVec 3) (s : State) : (addLength nb s).busy = s.busy := rfl
@[simp] theorem addLength_tail (nb : BitVec 3) (s : State) : (addLength nb s).tail = s.tail := rfl

@[simp] theorem absorb_v (t : List Byte) (s : State) : (absorb t s).v = compressBlocks (blockCount t) s.v t := rfl
@[simp] theorem absorb_buf (t : List Byte) (s : State) : (absorb t s).buf = bufferOf s.draws (absorbRest t) := rfl
@[simp] theorem absorb_buflen (t : List Byte) (s : State) : (absorb t s).buflen = BitVec.ofNat 6 (absorbRest t).length := rfl
@[simp] theorem absorb_len (t : List Byte) (s : State) : (absorb t s).len = s.len := rfl
@[simp] theorem absorb_datain (t : List Byte) (s : State) : (absorb t s).datain = s.datain := rfl
@[simp] theorem absorb_digest (t : List Byte) (s : State) : (absorb t s).digest = s.digest := rfl
@[simp] theorem absorb_dvalid (t : List Byte) (s : State) : (absorb t s).dvalid = s.dvalid := rfl
@[simp] theorem absorb_ill (t : List Byte) (s : State) : (absorb t s).ill = s.ill := rfl
@[simp] theorem absorb_pend (t : List Byte) (s : State) : (absorb t s).pend = s.pend := rfl
@[simp] theorem absorb_scratch (t : List Byte) (s : State) : (absorb t s).scratch = if blockCount t = 0 then s.scratch else Config.freeScratch s.draws := rfl
@[simp] theorem absorb_rst (t : List Byte) (s : State) : (absorb t s).rst = s.rst := rfl
@[simp] theorem absorb_held (t : List Byte) (s : State) : (absorb t s).held = s.held := rfl
@[simp] theorem absorb_inputs (t : List Byte) (s : State) : (absorb t s).inputs = s.inputs := rfl
@[simp] theorem absorb_responses (t : List Byte) (s : State) : (absorb t s).responses = s.responses := rfl
@[simp] theorem absorb_wait (t : List Byte) (s : State) : (absorb t s).wait = s.wait := rfl
@[simp] theorem absorb_draws (t : List Byte) (s : State) : (absorb t s).draws = s.draws + 1 := rfl
@[simp] theorem absorb_busy (t : List Byte) (s : State) : (absorb t s).busy = s.busy := rfl

@[simp] theorem freshContext_v (s : State) : (freshContext s).v = iv := rfl
@[simp] theorem freshContext_buf (s : State) : (freshContext s).buf = bufferOf s.draws [] := rfl
@[simp] theorem freshContext_buflen (s : State) : (freshContext s).buflen = 0#6 := rfl
@[simp] theorem freshContext_len (s : State) : (freshContext s).len = 0#64 := rfl
@[simp] theorem freshContext_datain (s : State) : (freshContext s).datain = s.datain := rfl
@[simp] theorem freshContext_digest (s : State) : (freshContext s).digest = s.digest := rfl
@[simp] theorem freshContext_dvalid (s : State) : (freshContext s).dvalid = false := rfl
@[simp] theorem freshContext_ill (s : State) : (freshContext s).ill = false := rfl
@[simp] theorem freshContext_pend (s : State) : (freshContext s).pend = s.pend := rfl
@[simp] theorem freshContext_scratch (s : State) : (freshContext s).scratch = s.scratch := rfl
@[simp] theorem freshContext_rst (s : State) : (freshContext s).rst = s.rst := rfl
@[simp] theorem freshContext_held (s : State) : (freshContext s).held = s.held := rfl
@[simp] theorem freshContext_inputs (s : State) : (freshContext s).inputs = s.inputs := rfl
@[simp] theorem freshContext_responses (s : State) : (freshContext s).responses = s.responses := rfl
@[simp] theorem freshContext_wait (s : State) : (freshContext s).wait = s.wait := rfl
@[simp] theorem freshContext_draws (s : State) : (freshContext s).draws = s.draws + 1 := rfl
@[simp] theorem freshContext_busy (s : State) : (freshContext s).busy = s.busy := rfl

@[simp] theorem writeDigest_v (s : State) : (writeDigest s).v = s.v := rfl
@[simp] theorem writeDigest_buf (s : State) : (writeDigest s).buf = s.buf := rfl
@[simp] theorem writeDigest_buflen (s : State) : (writeDigest s).buflen = s.buflen := rfl
@[simp] theorem writeDigest_len (s : State) : (writeDigest s).len = s.len := rfl
@[simp] theorem writeDigest_datain (s : State) : (writeDigest s).datain = s.datain := rfl
@[simp] theorem writeDigest_digest (s : State) : (writeDigest s).digest = finalWords s.v s.tail s.len := rfl
@[simp] theorem writeDigest_dvalid (s : State) : (writeDigest s).dvalid = true := rfl
@[simp] theorem writeDigest_ill (s : State) : (writeDigest s).ill = s.ill := rfl
@[simp] theorem writeDigest_pend (s : State) : (writeDigest s).pend = s.pend := rfl
@[simp] theorem writeDigest_scratch (s : State) : (writeDigest s).scratch = Config.freeScratch s.draws := rfl
@[simp] theorem writeDigest_rst (s : State) : (writeDigest s).rst = s.rst := rfl
@[simp] theorem writeDigest_held (s : State) : (writeDigest s).held = s.held := rfl
@[simp] theorem writeDigest_inputs (s : State) : (writeDigest s).inputs = s.inputs := rfl
@[simp] theorem writeDigest_responses (s : State) : (writeDigest s).responses = s.responses := rfl
@[simp] theorem writeDigest_wait (s : State) : (writeDigest s).wait = s.wait := rfl
@[simp] theorem writeDigest_draws (s : State) : (writeDigest s).draws = s.draws + 1 := rfl
@[simp] theorem writeDigest_busy (s : State) : (writeDigest s).busy = s.busy := rfl
@[simp] theorem writeDigest_tail (s : State) : (writeDigest s).tail = s.tail := rfl

@[simp] theorem applyReset_v (s : State) : (applyReset s).v = iv := rfl
@[simp] theorem applyReset_buf (s : State) : (applyReset s).buf = bufferOf s.draws [] := rfl
@[simp] theorem applyReset_buflen (s : State) : (applyReset s).buflen = 0#6 := rfl
@[simp] theorem applyReset_len (s : State) : (applyReset s).len = 0#64 := rfl
@[simp] theorem applyReset_datain (s : State) : (applyReset s).datain = 0#32 := rfl
@[simp] theorem applyReset_digest (s : State) : (applyReset s).digest = Vector.replicate 8 0#32 := rfl
@[simp] theorem applyReset_dvalid (s : State) : (applyReset s).dvalid = false := rfl
@[simp] theorem applyReset_ill (s : State) : (applyReset s).ill = false := rfl
@[simp] theorem applyReset_pend (s : State) : (applyReset s).pend = none := rfl
@[simp] theorem applyReset_scratch (s : State) : (applyReset s).scratch = Config.freeScratch s.draws := rfl
@[simp] theorem applyReset_rst (s : State) : (applyReset s).rst = s.rst := rfl
@[simp] theorem applyReset_held (s : State) : (applyReset s).held = s.held := rfl
@[simp] theorem applyReset_inputs (s : State) : (applyReset s).inputs = s.inputs := rfl
@[simp] theorem applyReset_responses (s : State) : (applyReset s).responses = s.responses := rfl
@[simp] theorem applyReset_wait (s : State) : (applyReset s).wait = 0 := rfl
@[simp] theorem applyReset_draws (s : State) : (applyReset s).draws = s.draws + 1 := rfl
@[simp] theorem applyReset_busy (s : State) : (applyReset s).busy = false := rfl

@[simp] theorem setReset_v (b : Bool) (s : State) : (setReset b s).v = s.v := rfl
@[simp] theorem setReset_buf (b : Bool) (s : State) : (setReset b s).buf = s.buf := rfl
@[simp] theorem setReset_buflen (b : Bool) (s : State) : (setReset b s).buflen = s.buflen := rfl
@[simp] theorem setReset_len (b : Bool) (s : State) : (setReset b s).len = s.len := rfl
@[simp] theorem setReset_datain (b : Bool) (s : State) : (setReset b s).datain = s.datain := rfl
@[simp] theorem setReset_digest (b : Bool) (s : State) : (setReset b s).digest = s.digest := rfl
@[simp] theorem setReset_dvalid (b : Bool) (s : State) : (setReset b s).dvalid = s.dvalid := rfl
@[simp] theorem setReset_ill (b : Bool) (s : State) : (setReset b s).ill = s.ill := rfl
@[simp] theorem setReset_pend (b : Bool) (s : State) : (setReset b s).pend = s.pend := rfl
@[simp] theorem setReset_scratch (b : Bool) (s : State) : (setReset b s).scratch = s.scratch := rfl
@[simp] theorem setReset_rst (b : Bool) (s : State) : (setReset b s).rst = b := rfl
@[simp] theorem setReset_held (b : Bool) (s : State) : (setReset b s).held = s.held := rfl
@[simp] theorem setReset_inputs (b : Bool) (s : State) : (setReset b s).inputs = s.inputs := rfl
@[simp] theorem setReset_responses (b : Bool) (s : State) : (setReset b s).responses = s.responses := rfl
@[simp] theorem setReset_wait (b : Bool) (s : State) : (setReset b s).wait = s.wait := rfl
@[simp] theorem setReset_draws (b : Bool) (s : State) : (setReset b s).draws = s.draws := rfl
@[simp] theorem setReset_busy (b : Bool) (s : State) : (setReset b s).busy = s.busy := rfl
@[simp] theorem setReset_tail (b : Bool) (s : State) : (setReset b s).tail = s.tail := rfl

@[simp] theorem clearPend_v (s : State) : (clearPend s).v = s.v := rfl
@[simp] theorem clearPend_buf (s : State) : (clearPend s).buf = s.buf := rfl
@[simp] theorem clearPend_buflen (s : State) : (clearPend s).buflen = s.buflen := rfl
@[simp] theorem clearPend_len (s : State) : (clearPend s).len = s.len := rfl
@[simp] theorem clearPend_datain (s : State) : (clearPend s).datain = s.datain := rfl
@[simp] theorem clearPend_digest (s : State) : (clearPend s).digest = s.digest := rfl
@[simp] theorem clearPend_dvalid (s : State) : (clearPend s).dvalid = s.dvalid := rfl
@[simp] theorem clearPend_ill (s : State) : (clearPend s).ill = s.ill := rfl
@[simp] theorem clearPend_pend (s : State) : (clearPend s).pend = none := rfl
@[simp] theorem clearPend_scratch (s : State) : (clearPend s).scratch = s.scratch := rfl
@[simp] theorem clearPend_rst (s : State) : (clearPend s).rst = s.rst := rfl
@[simp] theorem clearPend_held (s : State) : (clearPend s).held = s.held := rfl
@[simp] theorem clearPend_inputs (s : State) : (clearPend s).inputs = s.inputs := rfl
@[simp] theorem clearPend_responses (s : State) : (clearPend s).responses = s.responses := rfl
@[simp] theorem clearPend_wait (s : State) : (clearPend s).wait = s.wait := rfl
@[simp] theorem clearPend_draws (s : State) : (clearPend s).draws = s.draws := rfl
@[simp] theorem clearPend_busy (s : State) : (clearPend s).busy = false := rfl
@[simp] theorem clearPend_tail (s : State) : (clearPend s).tail = s.tail := rfl

@[simp] theorem tick_v (n : Nat) (s : State) : (tick n s).v = s.v := rfl
@[simp] theorem tick_buf (n : Nat) (s : State) : (tick n s).buf = s.buf := rfl
@[simp] theorem tick_buflen (n : Nat) (s : State) : (tick n s).buflen = s.buflen := rfl
@[simp] theorem tick_len (n : Nat) (s : State) : (tick n s).len = s.len := rfl
@[simp] theorem tick_datain (n : Nat) (s : State) : (tick n s).datain = s.datain := rfl
@[simp] theorem tick_digest (n : Nat) (s : State) : (tick n s).digest = s.digest := rfl
@[simp] theorem tick_dvalid (n : Nat) (s : State) : (tick n s).dvalid = s.dvalid := rfl
@[simp] theorem tick_ill (n : Nat) (s : State) : (tick n s).ill = s.ill := rfl
@[simp] theorem tick_pend (n : Nat) (s : State) : (tick n s).pend = s.pend := rfl
@[simp] theorem tick_scratch (n : Nat) (s : State) : (tick n s).scratch = s.scratch := rfl
@[simp] theorem tick_rst (n : Nat) (s : State) : (tick n s).rst = s.rst := rfl
@[simp] theorem tick_held (n : Nat) (s : State) : (tick n s).held = s.held := rfl
@[simp] theorem tick_inputs (n : Nat) (s : State) : (tick n s).inputs = s.inputs := rfl
@[simp] theorem tick_responses (n : Nat) (s : State) : (tick n s).responses = s.responses := rfl
@[simp] theorem tick_wait (n : Nat) (s : State) : (tick n s).wait = n := rfl
@[simp] theorem tick_draws (n : Nat) (s : State) : (tick n s).draws = s.draws := rfl
@[simp] theorem tick_busy (n : Nat) (s : State) : (tick n s).busy = s.busy := rfl
@[simp] theorem tick_tail (n : Nat) (s : State) : (tick n s).tail = s.tail := rfl

@[simp] theorem setInputs_v (is : List Input) (s : State) : (setInputs is s).v = s.v := rfl
@[simp] theorem setInputs_buf (is : List Input) (s : State) : (setInputs is s).buf = s.buf := rfl
@[simp] theorem setInputs_buflen (is : List Input) (s : State) : (setInputs is s).buflen = s.buflen := rfl
@[simp] theorem setInputs_len (is : List Input) (s : State) : (setInputs is s).len = s.len := rfl
@[simp] theorem setInputs_datain (is : List Input) (s : State) : (setInputs is s).datain = s.datain := rfl
@[simp] theorem setInputs_digest (is : List Input) (s : State) : (setInputs is s).digest = s.digest := rfl
@[simp] theorem setInputs_dvalid (is : List Input) (s : State) : (setInputs is s).dvalid = s.dvalid := rfl
@[simp] theorem setInputs_ill (is : List Input) (s : State) : (setInputs is s).ill = s.ill := rfl
@[simp] theorem setInputs_pend (is : List Input) (s : State) : (setInputs is s).pend = s.pend := rfl
@[simp] theorem setInputs_scratch (is : List Input) (s : State) : (setInputs is s).scratch = s.scratch := rfl
@[simp] theorem setInputs_rst (is : List Input) (s : State) : (setInputs is s).rst = s.rst := rfl
@[simp] theorem setInputs_held (is : List Input) (s : State) : (setInputs is s).held = s.held := rfl
@[simp] theorem setInputs_inputs (is : List Input) (s : State) : (setInputs is s).inputs = is := rfl
@[simp] theorem setInputs_responses (is : List Input) (s : State) : (setInputs is s).responses = s.responses := rfl
@[simp] theorem setInputs_wait (is : List Input) (s : State) : (setInputs is s).wait = s.wait := rfl
@[simp] theorem setInputs_draws (is : List Input) (s : State) : (setInputs is s).draws = s.draws := rfl
@[simp] theorem setInputs_busy (is : List Input) (s : State) : (setInputs is s).busy = s.busy := rfl
@[simp] theorem setInputs_tail (is : List Input) (s : State) : (setInputs is s).tail = s.tail := rfl

@[simp] theorem setHeld_v (as : List Access) (s : State) : (setHeld as s).v = s.v := rfl
@[simp] theorem setHeld_buf (as : List Access) (s : State) : (setHeld as s).buf = s.buf := rfl
@[simp] theorem setHeld_buflen (as : List Access) (s : State) : (setHeld as s).buflen = s.buflen := rfl
@[simp] theorem setHeld_len (as : List Access) (s : State) : (setHeld as s).len = s.len := rfl
@[simp] theorem setHeld_datain (as : List Access) (s : State) : (setHeld as s).datain = s.datain := rfl
@[simp] theorem setHeld_digest (as : List Access) (s : State) : (setHeld as s).digest = s.digest := rfl
@[simp] theorem setHeld_dvalid (as : List Access) (s : State) : (setHeld as s).dvalid = s.dvalid := rfl
@[simp] theorem setHeld_ill (as : List Access) (s : State) : (setHeld as s).ill = s.ill := rfl
@[simp] theorem setHeld_pend (as : List Access) (s : State) : (setHeld as s).pend = s.pend := rfl
@[simp] theorem setHeld_scratch (as : List Access) (s : State) : (setHeld as s).scratch = s.scratch := rfl
@[simp] theorem setHeld_rst (as : List Access) (s : State) : (setHeld as s).rst = s.rst := rfl
@[simp] theorem setHeld_held (as : List Access) (s : State) : (setHeld as s).held = as := rfl
@[simp] theorem setHeld_inputs (as : List Access) (s : State) : (setHeld as s).inputs = s.inputs := rfl
@[simp] theorem setHeld_responses (as : List Access) (s : State) : (setHeld as s).responses = s.responses := rfl
@[simp] theorem setHeld_wait (as : List Access) (s : State) : (setHeld as s).wait = s.wait := rfl
@[simp] theorem setHeld_draws (as : List Access) (s : State) : (setHeld as s).draws = s.draws := rfl
@[simp] theorem setHeld_busy (as : List Access) (s : State) : (setHeld as s).busy = s.busy := rfl
@[simp] theorem setHeld_tail (as : List Access) (s : State) : (setHeld as s).tail = s.tail := rfl

@[simp] theorem respond_v (a : Access) (r : Answer) (s : State) : (respond a r s).v = s.v := rfl
@[simp] theorem respond_buf (a : Access) (r : Answer) (s : State) : (respond a r s).buf = s.buf := rfl
@[simp] theorem respond_buflen (a : Access) (r : Answer) (s : State) : (respond a r s).buflen = s.buflen := rfl
@[simp] theorem respond_len (a : Access) (r : Answer) (s : State) : (respond a r s).len = s.len := rfl
@[simp] theorem respond_datain (a : Access) (r : Answer) (s : State) : (respond a r s).datain = s.datain := rfl
@[simp] theorem respond_digest (a : Access) (r : Answer) (s : State) : (respond a r s).digest = s.digest := rfl
@[simp] theorem respond_dvalid (a : Access) (r : Answer) (s : State) : (respond a r s).dvalid = s.dvalid := rfl
@[simp] theorem respond_ill (a : Access) (r : Answer) (s : State) : (respond a r s).ill = s.ill := rfl
@[simp] theorem respond_pend (a : Access) (r : Answer) (s : State) : (respond a r s).pend = s.pend := rfl
@[simp] theorem respond_scratch (a : Access) (r : Answer) (s : State) : (respond a r s).scratch = s.scratch := rfl
@[simp] theorem respond_rst (a : Access) (r : Answer) (s : State) : (respond a r s).rst = s.rst := rfl
@[simp] theorem respond_held (a : Access) (r : Answer) (s : State) : (respond a r s).held = s.held := rfl
@[simp] theorem respond_inputs (a : Access) (r : Answer) (s : State) : (respond a r s).inputs = s.inputs := rfl
@[simp] theorem respond_responses (a : Access) (r : Answer) (s : State) : (respond a r s).responses = s.responses ++ [⟨a, r⟩] := rfl
@[simp] theorem respond_wait (a : Access) (r : Answer) (s : State) : (respond a r s).wait = s.wait := rfl
@[simp] theorem respond_draws (a : Access) (r : Answer) (s : State) : (respond a r s).draws = s.draws := rfl
@[simp] theorem respond_busy (a : Access) (r : Answer) (s : State) : (respond a r s).busy = s.busy := rfl
@[simp] theorem respond_tail (a : Access) (r : Answer) (s : State) : (respond a r s).tail = s.tail := rfl

@[simp] theorem writeDatain_v (d : Word) (s : State) : (writeDatain d s).v = s.v := rfl
@[simp] theorem writeDatain_buf (d : Word) (s : State) : (writeDatain d s).buf = s.buf := rfl
@[simp] theorem writeDatain_buflen (d : Word) (s : State) : (writeDatain d s).buflen = s.buflen := rfl
@[simp] theorem writeDatain_len (d : Word) (s : State) : (writeDatain d s).len = s.len := rfl
@[simp] theorem writeDatain_datain (d : Word) (s : State) : (writeDatain d s).datain = d := rfl
@[simp] theorem writeDatain_digest (d : Word) (s : State) : (writeDatain d s).digest = s.digest := rfl
@[simp] theorem writeDatain_dvalid (d : Word) (s : State) : (writeDatain d s).dvalid = s.dvalid := rfl
@[simp] theorem writeDatain_ill (d : Word) (s : State) : (writeDatain d s).ill = s.ill := rfl
@[simp] theorem writeDatain_pend (d : Word) (s : State) : (writeDatain d s).pend = s.pend := rfl
@[simp] theorem writeDatain_scratch (d : Word) (s : State) : (writeDatain d s).scratch = s.scratch := rfl
@[simp] theorem writeDatain_rst (d : Word) (s : State) : (writeDatain d s).rst = s.rst := rfl
@[simp] theorem writeDatain_held (d : Word) (s : State) : (writeDatain d s).held = s.held := rfl
@[simp] theorem writeDatain_inputs (d : Word) (s : State) : (writeDatain d s).inputs = s.inputs := rfl
@[simp] theorem writeDatain_responses (d : Word) (s : State) : (writeDatain d s).responses = s.responses := rfl
@[simp] theorem writeDatain_wait (d : Word) (s : State) : (writeDatain d s).wait = s.wait := rfl
@[simp] theorem writeDatain_draws (d : Word) (s : State) : (writeDatain d s).draws = s.draws := rfl
@[simp] theorem writeDatain_busy (d : Word) (s : State) : (writeDatain d s).busy = s.busy := rfl
@[simp] theorem writeDatain_tail (d : Word) (s : State) : (writeDatain d s).tail = s.tail := rfl

@[simp] theorem accept_v (c : Word) (s : State) : (accept c s).v = s.v := rfl
@[simp] theorem accept_buf (c : Word) (s : State) : (accept c s).buf = s.buf := rfl
@[simp] theorem accept_buflen (c : Word) (s : State) : (accept c s).buflen = s.buflen := rfl
@[simp] theorem accept_len (c : Word) (s : State) : (accept c s).len = s.len := rfl
@[simp] theorem accept_datain (c : Word) (s : State) : (accept c s).datain = s.datain := rfl
@[simp] theorem accept_digest (c : Word) (s : State) : (accept c s).digest = s.digest := rfl
@[simp] theorem accept_dvalid (c : Word) (s : State) : (accept c s).dvalid = s.dvalid := rfl
@[simp] theorem accept_ill (c : Word) (s : State) : (accept c s).ill = s.ill := rfl
@[simp] theorem accept_pend (c : Word) (s : State) : (accept c s).pend = some c := rfl
@[simp] theorem accept_scratch (c : Word) (s : State) : (accept c s).scratch = s.scratch := rfl
@[simp] theorem accept_rst (c : Word) (s : State) : (accept c s).rst = s.rst := rfl
@[simp] theorem accept_held (c : Word) (s : State) : (accept c s).held = s.held := rfl
@[simp] theorem accept_inputs (c : Word) (s : State) : (accept c s).inputs = s.inputs := rfl
@[simp] theorem accept_responses (c : Word) (s : State) : (accept c s).responses = s.responses := rfl
@[simp] theorem accept_wait (c : Word) (s : State) : (accept c s).wait = Config.latency s.draws := rfl
@[simp] theorem accept_draws (c : Word) (s : State) : (accept c s).draws = s.draws + 1 := rfl
@[simp] theorem accept_busy (c : Word) (s : State) : (accept c s).busy = true := rfl
@[simp] theorem accept_tail (c : Word) (s : State) : (accept c s).tail = s.tail := rfl

@[simp] theorem hold_v (a : Access) (s : State) : (hold a s).v = s.v := rfl
@[simp] theorem hold_buf (a : Access) (s : State) : (hold a s).buf = s.buf := rfl
@[simp] theorem hold_buflen (a : Access) (s : State) : (hold a s).buflen = s.buflen := rfl
@[simp] theorem hold_len (a : Access) (s : State) : (hold a s).len = s.len := rfl
@[simp] theorem hold_datain (a : Access) (s : State) : (hold a s).datain = s.datain := rfl
@[simp] theorem hold_digest (a : Access) (s : State) : (hold a s).digest = s.digest := rfl
@[simp] theorem hold_dvalid (a : Access) (s : State) : (hold a s).dvalid = s.dvalid := rfl
@[simp] theorem hold_ill (a : Access) (s : State) : (hold a s).ill = s.ill := rfl
@[simp] theorem hold_pend (a : Access) (s : State) : (hold a s).pend = s.pend := rfl
@[simp] theorem hold_scratch (a : Access) (s : State) : (hold a s).scratch = s.scratch := rfl
@[simp] theorem hold_rst (a : Access) (s : State) : (hold a s).rst = s.rst := rfl
@[simp] theorem hold_held (a : Access) (s : State) : (hold a s).held = s.held ++ [a] := rfl
@[simp] theorem hold_inputs (a : Access) (s : State) : (hold a s).inputs = s.inputs := rfl
@[simp] theorem hold_responses (a : Access) (s : State) : (hold a s).responses = s.responses := rfl
@[simp] theorem hold_wait (a : Access) (s : State) : (hold a s).wait = s.wait := rfl
@[simp] theorem hold_draws (a : Access) (s : State) : (hold a s).draws = s.draws := rfl
@[simp] theorem hold_busy (a : Access) (s : State) : (hold a s).busy = s.busy := rfl
@[simp] theorem hold_tail (a : Access) (s : State) : (hold a s).tail = s.tail := rfl

@[simp] theorem placeCommand_v (c : Word) (s : State) : (placeCommand c s).v = s.v := rfl
@[simp] theorem placeCommand_buf (c : Word) (s : State) : (placeCommand c s).buf = s.buf := rfl
@[simp] theorem placeCommand_buflen (c : Word) (s : State) : (placeCommand c s).buflen = s.buflen := rfl
@[simp] theorem placeCommand_len (c : Word) (s : State) : (placeCommand c s).len = s.len := rfl
@[simp] theorem placeCommand_datain (c : Word) (s : State) : (placeCommand c s).datain = s.datain := rfl
@[simp] theorem placeCommand_digest (c : Word) (s : State) : (placeCommand c s).digest = s.digest := rfl
@[simp] theorem placeCommand_dvalid (c : Word) (s : State) : (placeCommand c s).dvalid = s.dvalid := rfl
@[simp] theorem placeCommand_ill (c : Word) (s : State) : (placeCommand c s).ill = s.ill := rfl
@[simp] theorem placeCommand_pend (c : Word) (s : State) : (placeCommand c s).pend = some c := rfl
@[simp] theorem placeCommand_scratch (c : Word) (s : State) : (placeCommand c s).scratch = s.scratch := rfl
@[simp] theorem placeCommand_rst (c : Word) (s : State) : (placeCommand c s).rst = false := rfl
@[simp] theorem placeCommand_held (c : Word) (s : State) : (placeCommand c s).held = s.held := rfl
@[simp] theorem placeCommand_inputs (c : Word) (s : State) : (placeCommand c s).inputs = dropResets s.inputs := rfl
@[simp] theorem placeCommand_responses (c : Word) (s : State) : (placeCommand c s).responses = s.responses := rfl
@[simp] theorem placeCommand_wait (c : Word) (s : State) : (placeCommand c s).wait = 0 := rfl
@[simp] theorem placeCommand_draws (c : Word) (s : State) : (placeCommand c s).draws = s.draws := rfl
@[simp] theorem placeCommand_busy (c : Word) (s : State) : (placeCommand c s).busy = true := rfl
@[simp] theorem placeCommand_tail (c : Word) (s : State) : (placeCommand c s).tail = s.tail := rfl

@[simp] theorem deliver_v (as : List Access) (s : State) : (deliver as s).v = s.v := rfl
@[simp] theorem deliver_buf (as : List Access) (s : State) : (deliver as s).buf = s.buf := rfl
@[simp] theorem deliver_buflen (as : List Access) (s : State) : (deliver as s).buflen = s.buflen := rfl
@[simp] theorem deliver_len (as : List Access) (s : State) : (deliver as s).len = s.len := rfl
@[simp] theorem deliver_datain (as : List Access) (s : State) : (deliver as s).datain = s.datain := rfl
@[simp] theorem deliver_digest (as : List Access) (s : State) : (deliver as s).digest = s.digest := rfl
@[simp] theorem deliver_dvalid (as : List Access) (s : State) : (deliver as s).dvalid = s.dvalid := rfl
@[simp] theorem deliver_ill (as : List Access) (s : State) : (deliver as s).ill = s.ill := rfl
@[simp] theorem deliver_pend (as : List Access) (s : State) : (deliver as s).pend = s.pend := rfl
@[simp] theorem deliver_scratch (as : List Access) (s : State) : (deliver as s).scratch = s.scratch := rfl
@[simp] theorem deliver_rst (as : List Access) (s : State) : (deliver as s).rst = s.rst := rfl
@[simp] theorem deliver_held (as : List Access) (s : State) : (deliver as s).held = s.held := rfl
@[simp] theorem deliver_inputs (as : List Access) (s : State) : (deliver as s).inputs = s.inputs ++ as.map .access := rfl
@[simp] theorem deliver_responses (as : List Access) (s : State) : (deliver as s).responses = s.responses := rfl
@[simp] theorem deliver_wait (as : List Access) (s : State) : (deliver as s).wait = s.wait := rfl
@[simp] theorem deliver_draws (as : List Access) (s : State) : (deliver as s).draws = s.draws := rfl
@[simp] theorem deliver_busy (as : List Access) (s : State) : (deliver as s).busy = s.busy := rfl
@[simp] theorem deliver_tail (as : List Access) (s : State) : (deliver as s).tail = s.tail := rfl

end Sys2Proof.Machine
end

