-- ==== Sys2Proof/Laws/Bus.lean ====
section
/-! SUPPORT. What a received access does, said once: the offset of an address, the checks of each access, and the cases of
`receive`. -/

namespace Sys2Proof.Machine

/-- An address `SM3_BASE + off` inside the window is at offset `off` (R39, R55). -/
@[simp] theorem windowOffset_base (off : Nat) (h : off < 64) :
    windowOffset (Config.sm3Base + off) = some ⟨off, h⟩ := by
  unfold windowOffset
  rw [dif_pos (by omega)]
  simp

theorem windowOffset_outside (addr : Nat) (h : addr < Config.sm3Base ∨ Config.sm3Base + 64 ≤ addr) :
    windowOffset addr = none := by
  unfold windowOffset
  rw [dif_neg (by omega)]

theorem windowOffset_some {addr : Nat} {off : Fin 64} (h : windowOffset addr = some off) :
    addr = Config.sm3Base + off.val := by
  unfold windowOffset at h
  split at h
  · cases h; simp; omega
  · cases h

/-- The cases of `receive` (R43): outside the window, an error, held, or performed. -/
theorem receive_cases (a : Access) (s : State) :
    (windowOffset a.addr = none ∧ receive a s = s) ∨
    (∃ off e, windowOffset a.addr = some off ∧ busCheck a.kind off a.size = .error e ∧
      receive a s = respond a (.error e) s) ∨
    (ordinary a = true ∧ s.busy = true ∧ receive a s = hold a s) ∨
    (∃ off op, windowOffset a.addr = some off ∧ busCheck a.kind off a.size = .ok op ∧
      (s.busy = false ∨ op = .readStatus) ∧ receive a s = perform op a s) := by
  unfold receive ordinary
  cases hw : windowOffset a.addr with
  | none => exact .inl ⟨rfl, rfl⟩
  | some off =>
    cases hb : busCheck a.kind off a.size with
    | error e => exact .inr (.inl ⟨off, e, rfl, hb, by simp [hb]⟩)
    | ok op =>
      by_cases h : s.busy = true ∧ op ≠ .readStatus
      · refine .inr (.inr (.inl ⟨by simp [hb, h.2], h.1, by simp [hb, h]⟩))
      · refine .inr (.inr (.inr ⟨off, op, rfl, hb, ?_, by simp only [hb, if_neg h]⟩))
        by_cases hs : s.busy = true
        · exact .inr (by simpa [hs] using h)
        · exact .inl (by simpa using hs)

/-- What performing an access leaves alone: the hashing context, DIGEST, the flags and the port but for the answer. -/
theorem perform_frame (op : BusOp) (a : Access) (s : State) :
    (perform op a s).v = s.v ∧ (perform op a s).buf = s.buf ∧ (perform op a s).buflen = s.buflen ∧
    (perform op a s).len = s.len ∧ (perform op a s).digest = s.digest ∧ (perform op a s).dvalid = s.dvalid ∧
    (perform op a s).ill = s.ill ∧ (perform op a s).scratch = s.scratch ∧ (perform op a s).rst = s.rst ∧
    (perform op a s).held = s.held ∧ (perform op a s).inputs = s.inputs ∧
    ∃ r, (perform op a s).responses = s.responses ++ [⟨a, r⟩] := by
  cases op <;> exact ⟨rfl, rfl, rfl, rfl, rfl, rfl, rfl, rfl, rfl, rfl, rfl, _, rfl⟩

/-- What receiving an access leaves alone (R43): the hashing context, DIGEST, the flags, the reset input and the inputs. -/
theorem receive_frame (a : Access) (s : State) :
    (receive a s).v = s.v ∧ (receive a s).buf = s.buf ∧ (receive a s).buflen = s.buflen ∧
    (receive a s).len = s.len ∧ (receive a s).digest = s.digest ∧ (receive a s).dvalid = s.dvalid ∧
    (receive a s).ill = s.ill ∧ (receive a s).scratch = s.scratch ∧ (receive a s).rst = s.rst ∧
    (receive a s).inputs = s.inputs := by
  obtain ⟨-, h⟩ | ⟨_, e, -, -, h⟩ | ⟨-, -, h⟩ | ⟨_, op, -, -, -, h⟩ := receive_cases a s
  · rw [h]; exact ⟨rfl, rfl, rfl, rfl, rfl, rfl, rfl, rfl, rfl, rfl⟩
  · rw [h]; exact ⟨rfl, rfl, rfl, rfl, rfl, rfl, rfl, rfl, rfl, rfl⟩
  · rw [h]; exact ⟨rfl, rfl, rfl, rfl, rfl, rfl, rfl, rfl, rfl, rfl⟩
  · rw [h]
    obtain ⟨h1, h2, h3, h4, h5, h6, h7, h8, h9, -, h11, -⟩ := perform_frame op a s
    exact ⟨h1, h2, h3, h4, h5, h6, h7, h8, h9, h11⟩

/-- While a command is in flight an access changes nothing the command or a host can see of the core: PEND, DATAIN, the wait
and the draws stay, and only legal accesses are held (R44). -/
theorem receive_busy (a : Access) (s : State) (h : s.busy = true) :
    (receive a s).pend = s.pend ∧ (receive a s).datain = s.datain ∧ (receive a s).wait = s.wait ∧
    (receive a s).draws = s.draws ∧
    ((receive a s).held = s.held ∨ (ordinary a = true ∧ (receive a s).held = s.held ++ [a])) := by
  obtain ⟨-, e⟩ | ⟨_, _, -, -, e⟩ | ⟨ho, -, e⟩ | ⟨_, op, -, -, hb, e⟩ := receive_cases a s
  · rw [e]; exact ⟨rfl, rfl, rfl, rfl, .inl rfl⟩
  · rw [e]; exact ⟨rfl, rfl, rfl, rfl, .inl rfl⟩
  · rw [e]; exact ⟨rfl, rfl, rfl, rfl, .inr ⟨ho, rfl⟩⟩
  · rw [e]
    rcases hb with hb | rfl
    · simp [hb] at h
    · exact ⟨rfl, rfl, rfl, rfl, .inl rfl⟩

/-- With no command in flight no access is held (R43, R44). -/
theorem receive_idle_held (a : Access) (s : State) (h : s.busy = false) : (receive a s).held = s.held := by
  obtain ⟨-, e⟩ | ⟨_, _, -, -, e⟩ | ⟨-, hb, -⟩ | ⟨_, op, -, -, -, e⟩ := receive_cases a s
  · rw [e]
  · rw [e]; rfl
  · simp [h] at hb
  · rw [e]; cases op <;> rfl

/-- A write that passes the checks is a 32-bit one at the offset of the register it writes (R42, R43). -/
theorem busCheck_write {kind : AccessKind} {off : Fin 64} {size : Nat} {op : BusOp} (h : busCheck kind off size = .ok op) :
    (op = .writeCmd → kind = .write ∧ size = 4 ∧ off.val = 0x00) ∧
    (op = .writeDatain → kind = .write ∧ size = 4 ∧ off.val = 0x08) := by
  unfold busCheck readOp writeOp at h
  cases kind <;> simp only [] at h <;> repeat' split at h
  all_goals first | (cases h; done) | (cases h; constructor <;> intro hop <;> first | (cases hop; done) | skip)
  all_goals exact ⟨rfl, by omega, by assumption⟩

/-- With no command in flight an access changes DATAIN only as a write of it, and PEND only as a write of CMD (R47, R81). -/
theorem receive_idle_writes (a : Access) (s : State) (h : s.busy = false) :
    ((receive a s).datain = s.datain ∨
      (a.kind = .write ∧ a.size = 4 ∧ AtOffset a 0x08 ∧ (receive a s).datain = a.value)) ∧
    ((receive a s).pend = s.pend ∨
      (a.kind = .write ∧ a.size = 4 ∧ AtOffset a 0x00 ∧ (receive a s).pend = some a.value)) := by
  obtain ⟨-, e⟩ | ⟨_, _, -, -, e⟩ | ⟨-, hb, -⟩ | ⟨off, op, hw, hc, -, e⟩ := receive_cases a s
  · rw [e]; exact ⟨.inl rfl, .inl rfl⟩
  · rw [e]; exact ⟨.inl rfl, .inl rfl⟩
  · simp [h] at hb
  · have ha := windowOffset_some hw
    rw [e]
    cases op with
    | writeCmd =>
      obtain ⟨h1, h2, h3⟩ := (busCheck_write hc).1 rfl
      exact ⟨.inl rfl, .inr ⟨h1, h2, ⟨h3 ▸ ha, by decide⟩, rfl⟩⟩
    | writeDatain =>
      obtain ⟨h1, h2, h3⟩ := (busCheck_write hc).2 rfl
      exact ⟨.inr ⟨h1, h2, ⟨h3 ▸ ha, by decide⟩, rfl⟩, .inl rfl⟩
    | _ => exact ⟨.inl rfl, .inl rfl⟩

end Sys2Proof.Machine
end

