-- ==== Sys2Proof/Laws/Words.lean ====
section
/-! SUPPORT. The rotation as the library's, the bits of a big-endian word, the entries of W, the lengths and bytes of byte
strings, and CF over the blocks of a concatenation. -/

namespace Sys2Proof.Machine

/-- The rotation of R66 is the library's rotation, so its lemmas apply. -/
theorem rotl_eq_rotateLeft (x : Word) (n : Nat) : rotl x n = x.rotateLeft n := by
  unfold rotl
  split
  · next h => ext i hi; simp [BitVec.getElem_rotateLeft, h]
  · next h => rw [BitVec.rotateLeft_def]

theorem rotl_xor (x y : Word) (n : Nat) : rotl (x ^^^ y) n = rotl x n ^^^ rotl y n := by
  unfold rotl
  split
  · rfl
  · ext i hi
    simp only [BitVec.getElem_or, BitVec.getElem_xor, BitVec.getElem_shiftLeft, BitVec.getElem_ushiftRight,
      BitVec.getLsbD_xor]
    by_cases h : i < n % 32
    · simp [h]
    · have h' : 32 ≤ 32 - n % 32 + i := by omega
      simp [h, BitVec.getLsbD_of_ge _ _ h']

/-- The bits of a big-endian word: the last byte's are the least significant (R9). -/
theorem be32_getLsbD (b0 b1 b2 b3 : Byte) (i : Nat) :
    (be32 b0 b1 b2 b3).getLsbD i =
      if i < 8 then b3.getLsbD i else if i < 16 then b2.getLsbD (i - 8)
      else if i < 24 then b1.getLsbD (i - 16) else b0.getLsbD (i - 24) := by
  have e : (be32 b0 b1 b2 b3).getLsbD i = BitVec.getLsbD (b0 ++ b1 ++ b2 ++ b3) i := rfl
  rw [e, BitVec.getLsbD_append, BitVec.getLsbD_append, BitVec.getLsbD_append]
  by_cases h1 : i < 8
  · simp [h1]
  · by_cases h2 : i < 16
    · simp [h1, h2, show i - 8 < 8 by omega]
    · by_cases h3 : i < 24
      · simp only [h1, h2, h3, if_false, if_true, show ¬ i - 8 < 8 by omega, show i - 8 - 8 = i - 16 by omega,
          show i - 16 < 8 by omega]
      · simp only [h1, h2, h3, if_false, show ¬ i - 8 < 8 by omega, show ¬ i - 8 - 8 < 8 by omega,
          show i - 8 - 8 - 8 = i - 24 by omega]

/-- W grows at the front: the words before the last `n` are those of fewer steps (R72). -/
theorem expandRev_drop (b : Block) (n k : Nat) : (expandRev b (n + k)).drop k = expandRev b n := by
  induction k with
  | zero => rfl
  | succ k ih => rw [← Nat.add_assoc]; exact ih

theorem expandRev_length (b : Block) (n : Nat) : (expandRev b n).length = 16 + n := by
  induction n with
  | zero => simp [expandRev]
  | succ n ih => simp [expandRev, ih]; omega

/-- W[16+n], once computed, is the recurrence on the words before it (R72). -/
theorem expandW_succ (b : Block) (n : Nat) (h : n < 52) : (expandW b)[16 + n]'(by omega) = nextW (expandRev b n) := by
  have e := expandRev_drop b (n + 1) (51 - n)
  rw [show n + 1 + (51 - n) = 52 by omega] at e
  have e0 : (expandRev b 52)[51 - n]? = some (nextW (expandRev b n)) := by
    have := congrArg (·[0]?) e
    simpa [expandRev, List.getElem?_drop] using this
  simp [expandW, show 67 - (16 + n) = 51 - n by omega, List.getD, e0]

/-- The words the recurrence reads are those of W (R72). -/
theorem expandRev_getD (b : Block) (n k : Nat) (hn : n ≤ 52) (hk : k < 16 + n) :
    (expandRev b n).getD k 0#32 = (expandW b)[15 + n - k]'(by omega) := by
  have e := expandRev_drop b n (52 - n)
  rw [show n + (52 - n) = 52 by omega] at e
  rw [← e]
  simp [expandW, List.getD, List.getElem?_drop, show 52 - n + k = 67 - (15 + n - k) by omega]

@[simp] theorem bytes32_length (w : Word) : (bytes32 w).length = 4 := rfl
@[simp] theorem be64bytes_length (n : BitVec 64) : (be64bytes n).length = 8 := rfl
@[simp] theorem zeros_length (k : Nat) : (zeros k).length = k := by simp [zeros]

/-- Byte r of the eight is bits 63−8r : 56−8r of the number (R9). -/
theorem be64bytes_getElem? (n : BitVec 64) (r : Nat) (h : r < 8) :
    (be64bytes n)[r]? = some (n.extractLsb' (56 - 8 * r) 8) := by
  have e : be64bytes n = [n.extractLsb' 56 8, n.extractLsb' 48 8, n.extractLsb' 40 8, n.extractLsb' 32 8,
      n.extractLsb' 24 8, n.extractLsb' 16 8, n.extractLsb' 8 8, n.extractLsb' 0 8] := by
    simp only [be64bytes, bytes32, List.cons_append, List.nil_append, List.cons.injEq, and_true]
    refine ⟨?_, ?_, ?_, ?_, ?_, ?_, ?_, ?_⟩ <;>
    · apply BitVec.eq_of_getLsbD_eq
      intro i hi
      simp [BitVec.getLsbD_extractLsb', hi, ← Nat.add_assoc]
      try omega
  rw [e]
  rcases r with _ | _ | _ | _ | _ | _ | _ | _ | r <;> first | rfl | omega

theorem pad_length (t : List Byte) (l : BitVec 64) : (pad t l).length = t.length + padZeros l + 9 := by
  simp [pad]; omega

/-- The padded tail is whole blocks when the tail has LEN mod 64 bytes (R88). -/
theorem pad_length_mod (t : List Byte) (l : BitVec 64) (h : t.length % 64 = l.toNat % 64) :
    (pad t l).length % 64 = 0 := by
  rw [pad_length, padZeros]; omega

theorem wholeBlocks_length (m : List Byte) : (wholeBlocks m).length = 64 * (m.length / 64) := by
  simp [wholeBlocks]; omega

theorem tailBytes_length (m : List Byte) : (tailBytes m).length = m.length % 64 := by
  simp [tailBytes]; omega

theorem wholeBlocks_append_tailBytes (m : List Byte) : wholeBlocks m ++ tailBytes m = m :=
  List.take_append_drop _ _

/-- A block read from a string of at least 64 bytes does not depend on what follows them. -/
theorem firstBlock_append (a b : List Byte) (h : 64 ≤ a.length) : firstBlock (a ++ b) = firstBlock a := by
  ext i hi
  have : i < a.length := by omega
  simp [firstBlock, List.getElem?_append_left this]

/-- CF over the blocks of `a ++ b`, `a` being `n` whole blocks, is CF over `a`'s and then over `b`'s (R80). -/
theorem compressBlocks_append (n k : Nat) (v : Vector Word 8) (a b : List Byte) (h : a.length = 64 * n) :
    compressBlocks (n + k) v (a ++ b) = compressBlocks k (compressBlocks n v a) b := by
  induction n generalizing v a with
  | zero =>
    have : a = [] := List.eq_nil_of_length_eq_zero (by omega)
    simp [this, compressBlocks]
  | succ n ih =>
    have h64 : 64 ≤ a.length := by omega
    rw [show n + 1 + k = (n + k) + 1 by omega]
    simp only [compressBlocks]
    rw [firstBlock_append a b h64, List.drop_append_of_le_length h64]
    exact ih _ _ (by rw [List.length_drop]; omega)

/-- CF over `n` blocks reads only the first `64 n` bytes. -/
theorem compressBlocks_take (n : Nat) (v : Vector Word 8) (t : List Byte) (h : 64 * n ≤ t.length) :
    compressBlocks n v (t.take (64 * n)) = compressBlocks n v t := by
  have e := compressBlocks_append n 0 v (t.take (64 * n)) (t.drop (64 * n)) (by rw [List.length_take]; omega)
  rw [List.take_append_drop] at e
  simpa [compressBlocks] using e.symm

/-- Absorbing `b` after `a`: the whole blocks of `a ++ b` are those of `a`, then those of `a`'s tail followed by `b`
(R87, R95). -/
theorem compressBlocks_whole_append (v : Vector Word 8) (a b : List Byte) :
    compressBlocks ((a ++ b).length / 64) v (a ++ b) =
      compressBlocks ((tailBytes a ++ b).length / 64) (compressBlocks (a.length / 64) v a) (tailBytes a ++ b) := by
  have hn : (a ++ b).length / 64 = a.length / 64 + (tailBytes a ++ b).length / 64 := by
    simp only [List.length_append, tailBytes_length]; omega
  have ha : a ++ b = wholeBlocks a ++ (tailBytes a ++ b) := by
    rw [← List.append_assoc, wholeBlocks_append_tailBytes]
  rw [hn]
  conv_lhs => rw [ha]
  rw [compressBlocks_append _ _ _ _ _ (wholeBlocks_length a), wholeBlocks,
    compressBlocks_take _ _ _ (by omega)]

theorem tailBytes_append (a b : List Byte) : tailBytes (a ++ b) = tailBytes (tailBytes a ++ b) := by
  have ha : a ++ b = wholeBlocks a ++ (tailBytes a ++ b) := by
    rw [← List.append_assoc, wholeBlocks_append_tailBytes]
  have hn : 64 * ((a ++ b).length / 64) =
      (wholeBlocks a).length + 64 * ((tailBytes a ++ b).length / 64) := by
    simp only [List.length_append, tailBytes_length, wholeBlocks_length]; omega
  unfold tailBytes
  rw [hn]
  conv_lhs => rw [ha]
  rw [List.drop_append]
  simp [tailBytes]

/-- The final words of a message are CF over its padded tail from the state its whole blocks leave (R89, R94). -/
theorem sm3Words_eq_finalWords (m : List Byte) :
    sm3Words m =
      finalWords (compressBlocks (m.length / 64) iv m) (tailBytes m) (BitVec.ofNat 64 m.length) := by
  have hl : (paddedMessage m).length / 64 =
      m.length / 64 + (pad (tailBytes m) (BitVec.ofNat 64 m.length)).length / 64 := by
    simp only [paddedMessage, List.length_append, wholeBlocks_length]; omega
  rw [sm3Words, hl, paddedMessage, compressBlocks_append _ _ _ _ _ (wholeBlocks_length m), finalWords, wholeBlocks,
    compressBlocks_take _ _ _ (by omega)]

end Sys2Proof.Machine
end

