-- ==== Sys2Proof/Laws/Ops.lean ====
section
/-! SUPPORT. What the shared operations of the commands do, said once each: the buffered bytes, Absorb, the chunk of an
UPDATE, and what a command or a commit can answer. -/

namespace Sys2Proof.Machine

theorem tail_length (s : State) : s.tail.length = s.buflen.toNat := by
  have := s.buflen.isLt
  simp [State.tail]; omega

theorem tail_length_lt (s : State) : s.tail.length < 64 := by
  rw [tail_length]; exact s.buflen.isLt

theorem updateChunk_length (nb : BitVec 3) (d : Word) (h : nb.toNat ≤ 4) : (updateChunk nb d).length = nb.toNat := by
  simp [updateChunk, datainBytes, h]

theorem absorbRest_eq_tailBytes (t : List Byte) : absorbRest t = tailBytes t := rfl

theorem absorbRest_length (t : List Byte) : (absorbRest t).length = t.length % 64 := tailBytes_length t

/-- The first cells of a buffer made of at most 64 bytes are those bytes. -/
theorem bufferOf_take (n : Nat) (t : List Byte) (h : t.length ≤ 64) : (bufferOf n t).toList.take t.length = t := by
  apply List.ext_getElem
  · simp; omega
  · intro i h1 h2
    simp [bufferOf, h2]

/-- Absorb leaves in the buffer exactly the bytes after the whole blocks (R87). -/
@[simp] theorem absorb_tail (t : List Byte) (s : State) : (absorb t s).tail = tailBytes t := by
  have h : (tailBytes t).length < 64 := by rw [tailBytes_length]; omega
  have e : (BitVec.ofNat 6 (tailBytes t).length).toNat = (tailBytes t).length := by
    rw [BitVec.toNat_ofNat]; omega
  simp only [State.tail, absorb_buf, absorb_buflen, absorbRest_eq_tailBytes, e]
  exact bufferOf_take _ _ (by omega)

@[simp] theorem freshContext_tail (s : State) : (freshContext s).tail = [] := by
  simp [State.tail]

@[simp] theorem applyReset_tail (s : State) : (applyReset s).tail = [] := by
  simp [State.tail]

/-- UPDATE n, n = 1..4, answers the state that has absorbed its chunk (R86). -/
theorem execUpdate_of_pos (nb : BitVec 3) (s : State) (h1 : 1 ≤ nb.toNat) (h4 : nb.toNat ≤ 4) :
    execUpdate nb s = .next (clearDvalid (absorb (s.tail ++ updateChunk nb s.datain) (addLength nb s))) := by
  unfold execUpdate
  rw [if_neg (by omega), if_pos h4]

/-- Every command completes from every state, and leaves PEND and the port as they are (R12, R98). -/
theorem exec_completes (i : Instr) (s : State) :
    ∃ t, exec i s = .next t ∧ t.pend = s.pend ∧ t.rst = s.rst ∧ t.held = s.held ∧ t.inputs = s.inputs ∧
      t.responses = s.responses ∧ t.datain = s.datain ∧ t.wait = s.wait := by
  cases i with
  | nop => exact ⟨s, rfl, rfl, rfl, rfl, rfl, rfl, rfl, rfl⟩
  | init => exact ⟨freshContext s, rfl, rfl, rfl, rfl, rfl, rfl, rfl, rfl⟩
  | finalize => exact ⟨writeDigest s, rfl, rfl, rfl, rfl, rfl, rfl, rfl, rfl⟩
  | update nb =>
    simp only [exec, execUpdate]
    split
    · exact ⟨s, rfl, rfl, rfl, rfl, rfl, rfl, rfl, rfl⟩
    · split
      · exact ⟨_, rfl, rfl, rfl, rfl, rfl, rfl, rfl, rfl⟩
      · exact ⟨_, rfl, rfl, rfl, rfl, rfl, rfl, rfl, rfl⟩

/-- Every commit completes, clears PEND and leaves the port as it is (R82, R83). -/
theorem commit_completes (c : Word) (s : State) :
    ∃ t, commit c s = .next t ∧ t.pend = none ∧ t.rst = s.rst ∧ t.held = s.held ∧ t.inputs = s.inputs ∧
      t.responses = s.responses ∧ t.datain = s.datain ∧ t.wait = s.wait := by
  unfold commit
  split
  · next i _ => simpa using exec_completes i (clearPend s)
  · exact ⟨_, rfl, rfl, rfl, rfl, rfl, rfl, rfl, rfl⟩

end Sys2Proof.Machine
end

