-- ==== Sys2Proof/Laws/PerInstr.lean ====
section
/-! SUPPORT. Per-instruction laws about the encoding: the word of each command has the fixed bits of its row of
spec/opcode_table.json. -/

namespace Sys2Proof.Laws

/-- The row's mask (spec/opcode_table.json): 1 where the encoding fixes the bit. -/
def rowMask : Instr → Word
  | .nop => 0xFFFFFFFF#32
  | .init => 0xFFFFFFFF#32
  | .update _ => 0xFFFFFF8F#32
  | .finalize => 0xFFFFFFFF#32

/-- The row's match (spec/opcode_table.json): the values of the fixed bits. -/
def rowMatch : Instr → Word
  | .nop => 0x00000000#32
  | .init => 0x00000001#32
  | .update _ => 0x00000002#32
  | .finalize => 0x00000003#32

/-- The encoding has the row's fixed bits, and below them the operand NB = c[6:4] (R58). -/
def TableRow.Statement (i : Instr) : Prop :=
  encode i &&& rowMask i = rowMatch i ∧ ∀ nb, i = .update nb → nbField (encode i) = nb

theorem TableRow.nop : TableRow.Statement .nop := ⟨by decide, nofun⟩

theorem TableRow.init : TableRow.Statement .init := ⟨by decide, nofun⟩

theorem TableRow.update (nb : BitVec 3) : TableRow.Statement (.update nb) := by
  refine ⟨by revert nb; decide, ?_⟩
  intro nb' h
  obtain rfl := Instr.update.inj h
  revert nb; decide

theorem TableRow.finalize : TableRow.Statement .finalize := ⟨by decide, nofun⟩

end Sys2Proof.Laws
end

