-- ==== Sys2Proof/Laws/Step.lean ====
section
/-! SUPPORT. What a step can do, said once: the inversion of `step` into its cases. -/

namespace Sys2Proof.Machine

/-- A step in reset (R113): where RESET_QUIET holds, the reset values, reset still asserted unless the release came; where it
does not, the fault. -/
theorem stepInReset_cases (s : State) (hr : s.rst = true) :
    (ResetQuiet s ∧ ∃ b, stepInReset s = .next (setReset b (applyReset (setInputs s.inputs.tail s))) ∧
      (b = false ↔ s.inputs.head? = some .resetRelease)) ∨
    (¬ ResetQuiet s ∧ stepInReset s = .fault .accessDuringReset) := by
  have hset : ∀ is, applyReset (setInputs is s) = setReset true (applyReset (setInputs is s)) := by
    intro is; simp [applyReset, setReset, setInputs, hr]
  unfold stepInReset
  cases hi : s.inputs with
  | nil =>
    refine .inl ⟨by simp [ResetQuiet, hr, hi], true, ?_, by simp⟩
    have hself : setInputs [] s = s := by rw [← hi]; rfl
    simp only [List.tail_nil]
    rw [← hset, hself]
  | cons i rest =>
    cases i with
    | access a =>
      cases hw : windowOffset a.addr with
      | none => exact .inl ⟨by simp [ResetQuiet, hr, hi, hw], true, by simpa [hi, hw] using hset rest, by simp⟩
      | some off => exact .inr ⟨by simp [ResetQuiet, hr, hi, hw], by simp [hw]⟩
    | resetAssert => exact .inl ⟨by simp [ResetQuiet, hr, hi], true, congrArg _ (hset rest), by simp⟩
    | resetRelease => exact .inl ⟨by simp [ResetQuiet, hr, hi], false, rfl, by simp⟩
    | quiet => exact .inl ⟨by simp [ResetQuiet, hr, hi], true, congrArg _ (hset rest), by simp⟩

/-- Asserting reset (R113): where RESET_QUIET holds, the reset values; where it does not, the fault. -/
theorem stepResetAssert_cases (s : State) (hr : s.rst = false) (hn : resetNext s = true) :
    (ResetQuiet s ∧ s.held = [] ∧
      stepResetAssert s = .next (setReset true (applyReset (setInputs s.inputs.tail s)))) ∨
    (¬ ResetQuiet s ∧ stepResetAssert s = .fault .resetNotQuiet) := by
  unfold stepResetAssert
  by_cases hh : s.held = []
  · exact .inl ⟨by simp [ResetQuiet, hr, hh], hh, by simp [hh]⟩
  · exact .inr ⟨by simp [ResetQuiet, hr, hn, hh], by simp [hh]⟩

/-- The commit step (R82, R103). -/
theorem step_of_commits {c : Word} {s : State} (h : Commits c s) : step s = commit c s := by
  obtain ⟨h1, h2, h3, h4⟩ := h
  unfold step
  simp [h1, h2, h3, h4]

/-- A step in flight: one input is taken and the wait counts down (R44, R123). -/
theorem step_of_waiting {s : State} {n : Nat} (h1 : s.rst = false) (h2 : resetNext s = false) (h3 : s.pend ≠ none)
    (h4 : s.wait = n + 1) : step s = .next (takeInput (tick n s)) := by
  unfold step
  cases hp : s.pend with
  | none => exact absurd hp h3
  | some c => simp [h1, h2, h4]

/-- A step with no command in flight: a held access, or else an input (R44, R50). -/
theorem step_of_idle {s : State} (h1 : s.rst = false) (h2 : resetNext s = false) (h3 : s.pend = none) :
    step s = .next (serveIdle s) := by
  unfold step
  simp [h1, h2, h3]

/-- The five kinds of step. -/
theorem step_cases (s : State) :
    (s.rst = true ∧ step s = stepInReset s) ∨
    (s.rst = false ∧ resetNext s = true ∧ step s = stepResetAssert s) ∨
    (∃ c, Commits c s ∧ step s = commit c s) ∨
    (∃ n, s.rst = false ∧ resetNext s = false ∧ s.pend ≠ none ∧ s.wait = n + 1 ∧
      step s = .next (takeInput (tick n s))) ∨
    (s.rst = false ∧ resetNext s = false ∧ s.pend = none ∧ step s = .next (serveIdle s)) := by
  cases h1 : s.rst with
  | true => exact .inl ⟨rfl, by unfold step; simp [h1]⟩
  | false =>
    cases h2 : resetNext s with
    | true => exact .inr (.inl ⟨rfl, rfl, by unfold step; simp [h1, h2]⟩)
    | false =>
      cases h3 : s.pend with
      | none => exact .inr (.inr (.inr (.inr ⟨rfl, rfl, rfl, step_of_idle h1 h2 h3⟩)))
      | some c =>
        cases h4 : s.wait with
        | zero => exact .inr (.inr (.inl ⟨c, ⟨h1, h2, h3, h4⟩, step_of_commits ⟨h1, h2, h3, h4⟩⟩))
        | succ n =>
          have hp : s.pend ≠ none := by simp [h3]
          exact .inr (.inr (.inr (.inl ⟨n, rfl, rfl, by simp, rfl, step_of_waiting h1 h2 hp h4⟩)))

/-- The inputs a step can take, one at most: an access received, or an event that passes. -/
theorem takeInput_cases (s : State) :
    (s.inputs = [] ∧ takeInput s = s) ∨
    (∃ a rest, s.inputs = .access a :: rest ∧ takeInput s = receive a (setInputs rest s)) ∨
    (∃ i rest, s.inputs = i :: rest ∧ (∀ a, i ≠ .access a) ∧ takeInput s = setInputs rest s) := by
  unfold takeInput
  cases hi : s.inputs with
  | nil => exact .inl ⟨rfl, rfl⟩
  | cons i rest =>
    cases i with
    | access a => exact .inr (.inl ⟨a, rest, rfl, rfl⟩)
    | resetAssert => exact .inr (.inr ⟨_, rest, rfl, by simp, rfl⟩)
    | resetRelease => exact .inr (.inr ⟨_, rest, rfl, by simp, rfl⟩)
    | quiet => exact .inr (.inr ⟨_, rest, rfl, by simp, rfl⟩)

/-- Taking an input leaves alone the hashing context, DIGEST, the flags, the scratch state and the reset input. -/
theorem takeInput_frame (s : State) :
    (takeInput s).v = s.v ∧ (takeInput s).buf = s.buf ∧ (takeInput s).buflen = s.buflen ∧
    (takeInput s).len = s.len ∧ (takeInput s).digest = s.digest ∧ (takeInput s).dvalid = s.dvalid ∧
    (takeInput s).ill = s.ill ∧ (takeInput s).scratch = s.scratch ∧ (takeInput s).rst = s.rst := by
  obtain ⟨-, e⟩ | ⟨a, rest, -, e⟩ | ⟨i, rest, -, -, e⟩ := takeInput_cases s
  · rw [e]; exact ⟨rfl, rfl, rfl, rfl, rfl, rfl, rfl, rfl, rfl⟩
  · rw [e]
    obtain ⟨h1, h2, h3, h4, h5, h6, h7, h8, h9, -⟩ := receive_frame a (setInputs rest s)
    exact ⟨h1, h2, h3, h4, h5, h6, h7, h8, h9⟩
  · rw [e]; exact ⟨rfl, rfl, rfl, rfl, rfl, rfl, rfl, rfl, rfl⟩

/-- So does serving an idle core. -/
theorem serveIdle_frame (s : State) :
    (serveIdle s).v = s.v ∧ (serveIdle s).buf = s.buf ∧ (serveIdle s).buflen = s.buflen ∧
    (serveIdle s).len = s.len ∧ (serveIdle s).digest = s.digest ∧ (serveIdle s).dvalid = s.dvalid ∧
    (serveIdle s).ill = s.ill ∧ (serveIdle s).scratch = s.scratch ∧ (serveIdle s).rst = s.rst := by
  unfold serveIdle
  split
  · next a rest _ =>
    obtain ⟨h1, h2, h3, h4, h5, h6, h7, h8, h9, -⟩ := receive_frame a (setHeld rest s)
    exact ⟨h1, h2, h3, h4, h5, h6, h7, h8, h9⟩
  · exact takeInput_frame s

/-- What a step to a next state can be: the reset values, a commit, or an input taken or a held access performed while none
commits. -/
theorem step_next {s t : State} (h : step s = .next t) :
    ((s.rst = true ∨ resetNext s = true) ∧ ∃ b, t = setReset b (applyReset (setInputs s.inputs.tail s))) ∨
    (s.rst = false ∧ resetNext s = false ∧ ∃ c, Commits c s ∧ commit c s = .next t) ∨
    (s.rst = false ∧ resetNext s = false ∧ (∀ c, ¬ Commits c s) ∧
      ∃ n, s.pend ≠ none ∧ s.wait = n + 1 ∧ t = takeInput (tick n s)) ∨
    (s.rst = false ∧ resetNext s = false ∧ (∀ c, ¬ Commits c s) ∧ s.pend = none ∧ t = serveIdle s) := by
  obtain ⟨hr, e⟩ | ⟨hr, hn, e⟩ | ⟨c, hc, e⟩ | ⟨n, h1, h2, h3, h4, e⟩ | ⟨h1, h2, h3, e⟩ := step_cases s
  · rw [e] at h
    obtain ⟨-, b, e', -⟩ | ⟨-, e'⟩ := stepInReset_cases s hr
    · rw [e'] at h; cases h; exact .inl ⟨.inl hr, b, rfl⟩
    · rw [e'] at h; cases h
  · rw [e] at h
    obtain ⟨-, -, e'⟩ | ⟨-, e'⟩ := stepResetAssert_cases s hr hn
    · rw [e'] at h; cases h; exact .inl ⟨.inr hn, true, rfl⟩
    · rw [e'] at h; cases h
  · rw [e] at h; exact .inr (.inl ⟨hc.1, hc.2.1, c, hc, h⟩)
  · rw [e] at h; cases h
    exact .inr (.inr (.inl ⟨h1, h2, by rintro c ⟨-, -, -, hw⟩; omega, n, h3, h4, rfl⟩))
  · rw [e] at h; cases h
    exact .inr (.inr (.inr ⟨h1, h2, (by rintro c ⟨-, -, hw, -⟩; rw [h3] at hw; cases hw), h3, rfl⟩))

/-- At most one word commits in a step. -/
theorem commits_unique {c d : Word} {s : State} (h : Commits c s) (h' : Commits d s) : c = d :=
  Option.some.inj (h.2.2.1.symm.trans h'.2.2.1)

end Sys2Proof.Machine
end

