-- ==== Sys2Proof/Tests/Slice0.lean ====
section
/-! SUPPORT. The model's own tests. Expected values come from the spec: the encodings of R59, the vectors of
95_test_vectors.md, the examples of the rules. The witnesses at the end meet the hypotheses of the statements. -/

namespace Sys2Proof.Tests

open Sys2Proof Sys2Proof.Machine

/-! ### Helpers -/

/-- A field of the next state, if there is one. -/
def ofNext {α : Type} (f : State → α) : StepOutcome → Option α
  | .next s => some (f s)
  | .fault _ => none
  | .refused _ => none

/-- The reset state with these inputs to come. -/
def idleWith (is : List Input) : State := { State.reset with inputs := is }

/-- The reset state with the command word `c` in flight for `n` more steps. -/
def flying (c : Word) (n : Nat) (is : List Input) : State := { State.reset with pend := some c, wait := n, inputs := is }

/-- Idle with the bytes `t` buffered, fewer than 64, nothing else supplied, and DATAIN = `d`. -/
def fed (t : List Byte) (d : Word) : State :=
  { State.reset with
    buf := Vector.ofFn fun i => t.getD i.val 0#8
    buflen := BitVec.ofNat 6 t.length
    len := BitVec.ofNat 64 t.length
    datain := d }

/-- The reset input asserted, these inputs to come. -/
def inReset (is : List Input) : State := { State.reset with rst := true, inputs := is }

/-- `n` bytes "a". -/
def as (n : Nat) : List Byte := List.replicate n 0x61#8

/-- The padded "abc" block (95, 2.3). -/
def abcBlock : Block := firstBlock (pad [0x61#8, 0x62#8, 0x63#8] 3#64)

/-! ### Well-formedness (R59, R60): the check refuses the ill-formed terms -/

theorem test_wf_accepts : Instr.wf (.update 0#3) = true ∧ Instr.wf (.update 4#3) = true ∧ Instr.wf .nop = true := by decide
theorem test_wf_refuses_update5 : Instr.wf (.update 5#3) = false := by decide
theorem test_wf_refuses_update6 : Instr.wf (.update 6#3) = false := by decide
theorem test_wf_refuses_update7 : Instr.wf (.update 7#3) = false := by decide

/-! ### Decoding: words written out from R57 and R59, RSV | NB | OP -/

theorem test_decode_nop : decode (0b0000000000000000000000000#25 ++ 0b000#3 ++ 0b0000#4) = .ok .nop := by decide
theorem test_decode_init : decode (0b0000000000000000000000000#25 ++ 0b000#3 ++ 0b0001#4) = .ok .init := by decide
theorem test_decode_update3 : decode (0b0000000000000000000000000#25 ++ 0b011#3 ++ 0b0010#4) = .ok (.update 3#3) := by decide
theorem test_decode_update4 : decode 0x00000042#32 = .ok (.update 4#3) := by decide
theorem test_decode_finalize : decode (0b0000000000000000000000000#25 ++ 0b000#3 ++ 0b0011#4) = .ok .finalize := by decide
/-- The illegal words of 95, 2.8. -/
theorem test_decode_illegal :
    [0x00000052#32, 0x00000072#32, 0x00000082#32, 0x00000011#32, 0x00000010#32, 0x00000013#32, 0x00000004#32, 0x0000000F#32,
      0x80000001#32, 0x00000102#32, 0xFFFFFFFF#32].all (fun c => (decode c).toOption.isNone) = true := by decide
theorem test_encode_words :
    encode .nop = 0x00000000#32 ∧ encode .init = 0x00000001#32 ∧ encode (.update 2#3) = 0x00000022#32 ∧
    encode .finalize = 0x00000003#32 := by decide
theorem test_decodeTableWord : decodeTableWord 32 0x32 = some (.update 3#3) ∧ decodeTableWord 32 0x52 = none := by decide

/-! ### The functions (95, 2.1 to 2.6) -/

theorem test_rotl : rotl 0x12345678#32 36 = 0x23456781#32 ∧ rotl 0x00000001#32 31 = 0x80000000#32 := by decide
theorem test_p0 : p0 0x12345678#32 = 0xD6688234#32 ∧ p0 0x80000000#32 = 0x80010100#32 := by decide
theorem test_p1 : p1 0x9ABCDEF0#32 = 0x8D89CDC1#32 ∧ p1 0x61626380#32 = 0x9092E200#32 := by decide
theorem test_roundConstant : roundConstant 17 = 0x3B14F50F#32 ∧ roundConstant 47 = 0xCEC53D43#32 := by decide
theorem test_ff : ff 15 0xF0F0F0F0#32 0xCCCCCCCC#32 0xAAAAAAAA#32 = 0x96969696#32 ∧
    ff 16 0xF0F0F0F0#32 0xCCCCCCCC#32 0xAAAAAAAA#32 = 0xE8E8E8E8#32 := by decide
theorem test_gg : gg 15 0xF0F0F0F0#32 0xCCCCCCCC#32 0xAAAAAAAA#32 = 0x96969696#32 ∧
    gg 16 0xF0F0F0F0#32 0xCCCCCCCC#32 0xAAAAAAAA#32 = 0xCACACACA#32 := by decide
theorem test_expandW :
    (expandW abcBlock)[0] = 0x61626380#32 ∧ (expandW abcBlock)[15] = 0x00000018#32 ∧
    (expandW abcBlock)[16] = 0x9092E200#32 ∧ (expandW abcBlock)[67] = 0xB99C0545#32 := by decide +kernel
theorem test_expandWPrime :
    (expandWPrime (expandW abcBlock))[12] = 0x9092E200#32 ∧
    (expandWPrime (expandW abcBlock))[63] = 0x49E260D5#32 := by decide +kernel
/-- Round 0 of the "abc" block from IV (R78, 95 2.4): W[0] = W′[0]. -/
theorem test_round0 :
    round 0 (loadWork iv) 0x61626380#32 0x61626380#32 =
      ⟨0xB9EDC12B#32, 0x7380166F#32, 0x29657292#32, 0x172442D7#32,
       0xB2AD29F4#32, 0xA96F30BC#32, 0xC550B189#32, 0xE38DEE4D#32⟩ := by decide +kernel
/-- CF of zero words and a zero block (95, 2.5). -/
theorem test_cf_zero :
    cf (Vector.replicate 8 0#32) (Vector.replicate 64 0#8) =
      #v[0x2762550F#32, 0x18134933#32, 0xBA35CE4E#32, 0x0A757E65#32,
         0x8C0E7205#32, 0xFE9E4FF6#32, 0x5AC5C88B#32, 0xA3649AC2#32] := by decide +kernel
theorem test_pad_lengths :
    (pad (as 55) 55#64).length = 64 ∧ (pad (as 56) 56#64).length = 128 ∧ (pad (as 63) 63#64).length = 128 := by
  decide +kernel
/-- The length field, its wrap (95, 2.6). -/
theorem test_pad_field :
    (pad (as 56) 120#64).drop 120 = [0, 0, 0, 0, 0, 0, 0x03, 0xC0] ∧
    be64bytes (8#64 * 0x1FFFFFFFFFFFFFFF#64) = [0xFF, 0xFF, 0xFF, 0xFF, 0xFF, 0xFF, 0xFF, 0xF8] ∧
    be64bytes (8#64 * 0x2000000000000000#64) = zeros 8 := by decide +kernel
/-- Each of the eight bytes of a length field in its place (R9). -/
theorem test_be64bytes :
    be64bytes 0x0123456789ABCDEF#64 = [0x01, 0x23, 0x45, 0x67, 0x89, 0xAB, 0xCD, 0xEF] := by decide
/-- SM3 of "" (the source's own digest, 95 1.1). -/
theorem test_sm3_empty :
    sm3Words [] = #v[0x1AB21D83#32, 0x55CFA17F#32, 0x8E611948#32, 0x31E81A8F#32,
      0x22BEC8C7#32, 0x28FEFB74#32, 0x7ED035EB#32, 0x5082AA2B#32] := by decide +kernel
/-- SM3 of 65 bytes "a", a whole block and a tail (95, 2.7). -/
theorem test_sm3_a65 :
    sm3Words (as 65) = #v[0x3D1D94AF#32, 0xA238EC3E#32, 0x2BBC20AD#32, 0x504702B2#32,
      0x4C16F288#32, 0x9C94973F#32, 0x2F8DA352#32, 0x6C44E4BC#32] := by decide +kernel
theorem test_hexDigest : hexDigest [0x1A#8, 0xB2#8] = ['1', 'a', 'b', '2'] := by decide

/-! ### The commands -/

/-- The example of R86: UPDATE 3 of 0x61626300 from reset. -/
theorem test_update3 :
    ofNext (fun t => (t.tail, t.buflen, t.len, t.v, statusWord t)) (exec (.update 3#3) (fed [] 0x61626300#32)) =
      some ([0x61#8, 0x62#8, 0x63#8], 3#6, 3#64, iv, 0x00000300#32) := by decide +kernel
/-- The corner case of R86: BUFLEN = 62 and n = 4 leave BUFLEN = 2; the block is 64 bytes "a". -/
theorem test_update_crosses :
    ofNext (fun t => (t.tail, t.buflen, t.len, t.v)) (exec (.update 4#3) (fed (as 62) 0x61616263#32)) =
      some ([0x62#8, 0x63#8], 2#6, 66#64, cf iv (Vector.replicate 64 0x61#8)) := by decide +kernel
/-- The example of R89: FINALIZE after "abc". -/
theorem test_finalize_abc :
    ofNext (fun t => (t.digest, statusWord t, t.v)) (exec .finalize (fed [0x61#8, 0x62#8, 0x63#8] 0x61626300#32)) =
      some (#v[0x66C7F0F4#32, 0x62EEEDD9#32, 0xD1F2D46B#32, 0xDC10E4E2#32,
        0x4167C487#32, 0x5CF2F7A2#32, 0x297DA02B#32, 0x8F4BA8E0#32], 0x00000302#32, iv) := by decide +kernel
/-- Two padding blocks at BUFLEN = 56 (95, 2.7 and 2.10). -/
theorem test_finalize_a56 :
    ofNext (fun t => (t.digest[0], t.digest[7], statusWord t)) (exec .finalize (fed (as 56) 0#32)) =
      some (0xBA00EBED#32, 0xD67AA3C8#32, 0x00003802#32) := by decide +kernel
/-- The example of R85. -/
theorem test_init :
    ofNext (fun t => (statusWord t, t.len, t.datain)) (exec .init { fed (as 60) 0x61626364#32 with ill := true }) =
      some (0x00000000#32, 0#64, 0x61626364#32) := by decide +kernel
theorem test_nop : exec .nop (fed (as 60) 5#32) = .next (fed (as 60) 5#32) := rfl

/-! ### Steps and the port -/

theorem test_step_placed_update :
    ofNext (fun t => (t.tail, t.pend)) (step ((fed [] 0x61626300#32).withFetchWord 32 0x12)) = some ([0x61#8], none) := by
  decide +kernel
/-- An illegal command from reset: STATUS 0x00000004 (95, 2.10). -/
theorem test_step_illegal :
    ofNext statusWord (step (State.reset.withFetchWord 32 0x52)) = some 0x00000004#32 := by decide +kernel
/-- STATUS while a command is in flight from 0x00000300 (95, 2.10). -/
theorem test_status_busy :
    statusWord { fed [0x61#8, 0x62#8, 0x63#8] 0#32 with pend := some 3#32 } = 0x00000301#32 := by decide
/-- After 60 bytes (95, 2.10). -/
theorem test_status_fill : statusWord (fed (as 60) 0#32) = 0x00003C00#32 := by decide
/-- The rows of 95, 2.9. -/
theorem test_bus_checks :
    busCheck .read 0x09 4 = .error .beAlign ∧ busCheck .read 0x08 1 = .error .beSize ∧
    busCheck .write 0x0E 2 = .error .beSize ∧ busCheck .read 0x0C 4 = .error .beUnmapped ∧
    busCheck .write 0x18 4 = .error .beUnmapped ∧ busCheck .read 0x00 4 = .error .beDirection ∧
    busCheck .write 0x04 4 = .error .beDirection ∧ busCheck .write 0x10 4 = .error .beDirection ∧
    busCheck .write 0x3C 4 = .error .beDirection ∧ busCheck .read 0x3C 4 = .ok (.readDigest 7) ∧
    busCheck .write 0x08 4 = .ok .writeDatain := ⟨rfl, rfl, rfl, rfl, rfl, rfl, rfl, rfl, rfl, rfl, rfl⟩
/-- The words of a host program (R64). -/
theorem test_host_words :
    (hostAccess 0 (.update 3)).value = 0x00000032#32 ∧ packBytes [0x61#8, 0x62#8, 0x63#8] = 0x61626300#32 ∧
    (hashProgram [0x61#8, 0x62#8, 0x63#8]).length = 12 := by decide

/-! ### Witnesses: concrete states and operands that meet the hypotheses of the statements, clause by clause -/

/-- An aligned 32-bit access at offset `off`. -/
def at32 (k : AccessKind) (off : Nat) (v : Word) : Access := ⟨0, k, Config.sm3Base + off, 4, v⟩

theorem witness_DecodeEncodeAgree : Instr.wf (.update 4#3) = true ∧ decode 0x00000042#32 = .ok (.update 4#3) := by decide

theorem witness_PermutationBits : 0 < 32 ∧ 31 < 32 := by decide

theorem witness_BooleanFunctionBits : (31 < 32 ∧ 15 ≤ 15) ∧ (0 < 32 ∧ 16 ≤ 16) := by decide

theorem witness_ExpansionSchedule : 15 < 16 ∧ (16 ≤ 16 ∧ 16 < 68) ∧ (16 ≤ 67 ∧ 67 < 68) ∧ 63 < 64 := by decide

theorem witness_RoundConstants : 15 ≤ 15 ∧ (16 ≤ 16 ∧ 31 ≤ 31) ∧ (32 ≤ 32 ∧ 63 ≤ 63) := by decide

/-- Tails of 0, 55, 56 and 63 bytes, and a length of one whole block. -/
theorem witness_PadLayout :
    ([] : List Byte).length = (64#64).toNat % 64 ∧ (as 55).length = (55#64).toNat % 64 ∧
    (as 56).length = (120#64).toNat % 64 ∧ (as 63).length = (63#64).toNat % 64 ∧ 0 < 8 ∧ 7 < 8 := by decide

theorem witness_DigestSerialization : 7 < 8 ∧ 3 < 4 := by decide

theorem witness_DatainPacking : 3 < 4 ∧ (4#3).toNat ≤ 4 ∧ 3 < (4#3).toNat ∧ (0#3).toNat ≤ 4 := by decide

theorem witness_NopCompletesUnchanged :
    (0x00000010#32).extractLsb' 0 4 = 0x0#4 ∧ (0x00000010#32).extractLsb' 4 28 ≠ 0#28 ∧
    (0x80000000#32).extractLsb' 0 4 = 0x0#4 ∧ (0x80000000#32).extractLsb' 4 28 ≠ 0#28 := by decide

theorem witness_InitCompletesWithFreshContext : State.reset = State.reset ∧ State.reset.pend = none := ⟨rfl, rfl⟩

/-- BUFLEN + n is 63, then 64, then 67. -/
theorem witness_UpdateSuppliesBytes :
    (1 ≤ (1#3).toNat ∧ (1#3).toNat ≤ 4 ∧ (fed (as 62) 0#32).buflen.toNat + (1#3).toNat < 64) ∧
    (1 ≤ (4#3).toNat ∧ (4#3).toNat ≤ 4 ∧ 64 ≤ (fed (as 60) 0#32).buflen.toNat + (4#3).toNat) ∧
    64 ≤ (fed (as 63) 0#32).buflen.toNat + (4#3).toNat := by decide

theorem witness_UpdateBeyondFourOnlySetsIll : 5 ≤ (5#3).toNat ∧ 5 ≤ (7#3).toNat := by decide

theorem witness_FinalizeWritesDigestOnly :
    ((fed (as 55) 0#32).len.toNat % 64 = (fed (as 55) 0#32).buflen.toNat ∧ (fed (as 55) 0#32).buflen.toNat ≤ 55) ∧
    ((fed (as 56) 0#32).len.toNat % 64 = (fed (as 56) 0#32).buflen.toNat ∧ 56 ≤ (fed (as 56) 0#32).buflen.toNat) := by decide

/-- "abc" as one UPDATE, and with an empty one after it. -/
theorem witness_DigestIsSm3OfMessage :
    (∀ c ∈ ([(3#3, 0x61626300#32), (0#3, 0#32)] : List Chunk), c.1.toNat ≤ 4) ∧
    (chunkBytes [(3#3, 0x61626300#32), (0#3, 0#32)]).length < 2 ^ 61 :=
  ⟨by simp, Nat.lt_of_le_of_lt (m := 8) (by decide) (by norm_num)⟩

/-- "abcd" as one UPDATE and as two. -/
theorem witness_ChunkingInvariance :
    (∀ c ∈ ([(4#3, 0x61626364#32)] : List Chunk), c.1.toNat ≤ 4) ∧
    (∀ c ∈ ([(1#3, 0x61000000#32), (3#3, 0x62636400#32)] : List Chunk), c.1.toNat ≤ 4) ∧
    chunkBytes [(4#3, 0x61626364#32)] = chunkBytes [(1#3, 0x61000000#32), (3#3, 0x62636400#32)] :=
  ⟨by simp, by simp, by decide⟩

theorem witness_FinalizeIsAPureQuery :
    (∀ c ∈ ([(1#3, 0x61000000#32)] : List Chunk), c.1.toNat ≤ 4) ∧
    (∀ d ∈ ([(4#3, 0x61626364#32)] : List Chunk), d.1.toNat ≤ 4) ∧
    (chunkBytes [(1#3, 0x61000000#32)] ++ chunkBytes [(4#3, 0x61626364#32)]).length < 2 ^ 61 :=
  ⟨by simp, by simp, Nat.lt_of_le_of_lt (m := 8) (by decide) (by norm_num)⟩

theorem witness_ReadsAnswer_status_idle :
    Idle (idleWith [.access (at32 .read 0x04 0#32)]) ∧
    (idleWith [.access (at32 .read 0x04 0#32)]).inputs = [.access ⟨0, .read, Config.sm3Base + 0x04, 4, 0#32⟩] :=
  ⟨⟨rfl, rfl, rfl⟩, rfl⟩

theorem witness_ReadsAnswer_status_busy :
    InFlight (flying 3#32 1 [.access (at32 .read 0x04 0#32)]) ∧
    (flying 3#32 1 [.access (at32 .read 0x04 0#32)]).inputs = [.access ⟨0, .read, Config.sm3Base + 0x04, 4, 0#32⟩] :=
  ⟨⟨rfl, nofun, Nat.one_pos⟩, rfl⟩

/-- DATAIN, LENLO, LENHI, DIGEST[0] and DIGEST[7]. -/
theorem witness_ReadsAnswer_others : ∀ off ∈ [0x08, 0x10, 0x14, 0x20, 0x3C],
    Idle (idleWith [.access (at32 .read off 0#32)]) ∧
    (idleWith [.access (at32 .read off 0#32)]).inputs = [.access ⟨0, .read, Config.sm3Base + off, 4, 0#32⟩] ∧
    (off = 0x08 ∨ off = 0x10 ∨ off = 0x14 ∨ ∃ i : Fin 8, off = 0x20 + 4 * i.val) := by
  intro off h
  refine ⟨⟨rfl, rfl, rfl⟩, rfl, ?_⟩
  revert off; decide

theorem witness_WritesStoreOrIssue :
    Idle (idleWith [.access (at32 .write 0x08 7#32)]) ∧ Idle (idleWith [.access (at32 .write 0x00 7#32)]) ∧
    (idleWith [.access (at32 .write 0x08 7#32)]).inputs = [.access ⟨0, .write, Config.sm3Base + 0x08, 4, 7#32⟩] ∧
    (idleWith [.access (at32 .write 0x00 7#32)]).inputs = [.access ⟨0, .write, Config.sm3Base + 0x00, 4, 7#32⟩] :=
  ⟨⟨rfl, rfl, rfl⟩, ⟨rfl, rfl, rfl⟩, rfl, rfl⟩

/-- Any access at an offset below 64, with the core idle and with a command in flight, is received at the offset. -/
theorem witness_received (a : Access) (off : Nat) (ha : a.addr = Config.sm3Base + off) (h : off < 64) :
    Receives a [] (idleWith [.access a]) ∧ Receives a [] (flying 3#32 1 [.access a]) ∧ AtOffset a off :=
  ⟨⟨rfl, .inl ⟨rfl, rfl, rfl⟩⟩, ⟨rfl, .inr ⟨rfl, nofun, Nat.one_pos⟩⟩, ha, h⟩

/-- The five clauses, at the first and last offsets of each. -/
theorem witness_MalformedAccessesAnsweredAtOnce :
    (Receives ⟨0, .read, Config.sm3Base + 0x0E, 2, 0#32⟩ [] (idleWith [.access ⟨0, .read, Config.sm3Base + 0x0E, 2, 0#32⟩]) ∧
      AtOffset ⟨0, .read, Config.sm3Base + 0x0E, 2, 0#32⟩ 0x0E ∧ 2 ≠ 4) ∧
    (Receives (at32 .read 0x3F 0#32) [] (flying 3#32 1 [.access (at32 .read 0x3F 0#32)]) ∧
      AtOffset (at32 .read 0x3F 0#32) 0x3F ∧ 0x3F % 4 ≠ 0) ∧
    (Receives (at32 .write 0x0C 0#32) [] (idleWith [.access (at32 .write 0x0C 0#32)]) ∧
      AtOffset (at32 .write 0x0C 0#32) 0x0C) ∧
    (Receives (at32 .read 0x00 0#32) [] (idleWith [.access (at32 .read 0x00 0#32)]) ∧
      AtOffset (at32 .read 0x00 0#32) 0x00) ∧
    (Receives (at32 .write 0x20 0#32) [] (flying 3#32 1 [.access (at32 .write 0x20 0#32)]) ∧
      AtOffset (at32 .write 0x20 0#32) 0x20 ∧ 0x20 % 4 = 0) ∧
    (Receives (at32 .write 0x3C 0#32) [] (idleWith [.access (at32 .write 0x3C 0#32)]) ∧
      AtOffset (at32 .write 0x3C 0#32) 0x3C ∧ 0x3C % 4 = 0) :=
  ⟨⟨(witness_received _ 0x0E rfl (by decide)).1, ⟨rfl, by decide⟩, by decide⟩,
    ⟨(witness_received _ 0x3F rfl (by decide)).2.1, ⟨rfl, by decide⟩, by decide⟩,
    ⟨(witness_received _ 0x0C rfl (by decide)).1, rfl, by decide⟩,
    ⟨(witness_received _ 0x00 rfl (by decide)).1, rfl, by decide⟩,
    ⟨(witness_received _ 0x20 rfl (by decide)).2.1, ⟨rfl, by decide⟩, by decide⟩,
    ⟨(witness_received _ 0x3C rfl (by decide)).1, ⟨rfl, by decide⟩, by decide⟩⟩

/-- The legal accesses at their first and last offsets: CMD and DATAIN written, STATUS and DIGEST[7] read. -/
theorem witness_MalformedAccesses_legal :
    (0x00 % 4 = 0 ∧ (AccessKind.write = .read → 0x00 ≠ 0x00)) ∧ (0x08 % 4 = 0 ∧ 0x08 ≠ 0x0C) ∧
    (0x04 % 4 = 0 ∧ 0x04 ≠ 0x00 ∧ (AccessKind.read = .write → 0x04 = 0x00)) ∧
    (0x3C % 4 = 0 ∧ 0x3C ≠ 0x0C ∧ 0x3C ≠ 0x18 ∧ 0x3C ≠ 0x1C ∧ 0x3C ≠ 0x00) :=
  ⟨⟨rfl, nofun⟩, by decide, ⟨rfl, by decide, nofun⟩, by decide⟩

theorem ordinary_cmd (v : Word) : ordinary (at32 .write 0x00 v) = true := by
  simp [ordinary, at32, busCheck, writeOp, windowOffset]

theorem witness_BusyHolds_held :
    InFlight (flying 3#32 1 [.access (at32 .write 0x00 1#32)]) ∧ ordinary (at32 .write 0x00 1#32) = true :=
  ⟨⟨rfl, nofun, Nat.one_pos⟩, ordinary_cmd _⟩

theorem witness_BusyHolds_first_held :
    ({ State.reset with held := [at32 .write 0x00 1#32] } : State).rst = false ∧
    ({ State.reset with held := [at32 .write 0x00 1#32] } : State).pend = none ∧
    ({ State.reset with held := [at32 .write 0x00 1#32] } : State).held = at32 .write 0x00 1#32 :: [] ∧
    resetNext { State.reset with held := [at32 .write 0x00 1#32] } = false ∧ ordinary (at32 .write 0x00 1#32) = true :=
  ⟨rfl, rfl, rfl, rfl, ordinary_cmd _⟩

/-- The first address above the window. -/
theorem witness_AccessesOutsideTheWindowPass :
    Receives (at32 .read 64 0#32) [] (idleWith [.access (at32 .read 64 0#32)]) ∧
    Receives (at32 .read 64 0#32) [] (flying 3#32 1 [.access (at32 .read 64 0#32)]) ∧
    Config.sm3Base + 64 ≤ (at32 .read 64 0#32).addr :=
  ⟨⟨rfl, .inl ⟨rfl, rfl, rfl⟩⟩, ⟨rfl, .inr ⟨rfl, nofun, Nat.one_pos⟩⟩, Nat.le_refl _⟩

theorem witness_StepRunsTheDecodedCommand :
    Commits 0x00000032#32 (flying 0x00000032#32 0 []) ∧ decode 0x00000032#32 = .ok (.update 3#3) ∧
    decodeTableWord 32 0x32 = some (.update 3#3) := ⟨⟨rfl, rfl, rfl, rfl⟩, by decide, by decide⟩

/-- One illegal word of each of the four kinds of R61. -/
theorem witness_IllegalCommandSetsIllOnly :
    (∀ c : Word, Commits c (flying c 0 [])) ∧ decode 0x80000001#32 = .error .reservedBits ∧
    decode 0x00000004#32 = .error .reservedOp ∧ decode 0x00000052#32 = .error .byteCount ∧
    decode 0x00000011#32 = .error .byteCountNotZero := ⟨fun _ => ⟨rfl, rfl, rfl, rfl⟩, by decide, by decide, by decide, by decide⟩

theorem witness_IllChanges_commits :
    (∃ t, step (flying 0x52#32 0 []) = .next t) ∧ Commits 0x52#32 (flying 0x52#32 0 []) ∧
    decode 0x52#32 = .error .byteCount ∧
    (∃ t, step (flying 1#32 0 []) = .next t) ∧ Commits 1#32 (flying 1#32 0 []) ∧ decode 1#32 = .ok .init :=
  ⟨⟨_, rfl⟩, ⟨rfl, rfl, rfl, rfl⟩, by decide, ⟨_, rfl⟩, ⟨rfl, rfl, rfl, rfl⟩, by decide⟩

theorem witness_reset_clauses :
    (∃ t, step (inReset [.resetRelease]) = .next t) ∧ (inReset [.resetRelease]).rst = true ∧
    (∃ t, step (idleWith [.resetAssert]) = .next t) ∧ resetNext (idleWith [.resetAssert]) = true :=
  ⟨⟨_, rfl⟩, rfl, ⟨_, rfl⟩, rfl⟩

/-- A NOP commits: neither INIT nor illegal. -/
theorem witness_IllChanges_unchanged :
    (∃ t, step (flying 0#32 0 []) = .next t) ∧ (flying 0#32 0 []).rst = false ∧ resetNext (flying 0#32 0 []) = false ∧
    ∀ c, Commits c (flying 0#32 0 []) → decode c ≠ .ok .init ∧ ∀ e, decode c ≠ .error e := by
  refine ⟨⟨_, rfl⟩, rfl, rfl, ?_⟩
  intro c h
  obtain rfl : 0#32 = c := Option.some.inj h.2.2.1
  have hd : decode 0#32 = .ok .nop := by decide
  rw [hd]
  exact ⟨nofun, nofun⟩

theorem witness_DvalidChanges_commits :
    (∀ c : Word, Commits c (flying c 0 [])) ∧ (∃ t, step (flying 3#32 0 []) = .next t) ∧ decode 3#32 = .ok .finalize ∧
    decode 1#32 = .ok .init ∧ (decode 0x42#32 = .ok (.update 4#3) ∧ 4#3 ≠ 0#3) ∧ decode 2#32 = .ok (.update 0#3) ∧
    decode 0#32 = .ok .nop ∧ decode 0xFFFFFFFF#32 = .error .reservedBits :=
  ⟨fun _ => ⟨rfl, rfl, rfl, rfl⟩, ⟨_, rfl⟩, by decide, by decide, ⟨by decide, by decide⟩, by decide, by decide, by decide⟩

theorem witness_DvalidChanges_no_commit :
    (∃ t, step (idleWith [.quiet]) = .next t) ∧ (∀ c, ¬ Commits c (idleWith [.quiet])) ∧ (idleWith [.quiet]).rst = false ∧
    resetNext (idleWith [.quiet]) = false := by
  refine ⟨⟨_, rfl⟩, ?_, rfl, rfl⟩
  intro c h
  have : none = some c := h.2.2.1
  cases this

theorem witness_ChainingStateChangesByWholeBlocks : ∃ t, step (flying 0x42#32 0 []) = .next t := ⟨_, rfl⟩

theorem witness_RegistersChangeOnlyByTheirWriters :
    (∃ t, step (idleWith [.access (at32 .write 0x08 7#32)]) = .next t) ∧
    (idleWith [.access (at32 .write 0x08 7#32)]).rst = false ∧
    resetNext (idleWith [.access (at32 .write 0x08 7#32)]) = false := ⟨⟨_, rfl⟩, rfl, rfl⟩

/-- A write of CMD that a step may perform, and a step that commits. -/
theorem witness_RegistersChange_pend :
    MayPerformWrite (at32 .write 0x00 1#32) 0x00 (idleWith [.access (at32 .write 0x00 1#32)]) ∧
    (∃ t, step (idleWith [.access (at32 .write 0x00 1#32)]) = .next t) ∧
    (∃ t, step (flying 1#32 0 []) = .next t) ∧ Commits 1#32 (flying 1#32 0 []) :=
  ⟨⟨rfl, .inr rfl, rfl, rfl, rfl, by decide⟩, ⟨_, rfl⟩, ⟨_, rfl⟩, ⟨rfl, rfl, rfl, rfl⟩⟩

theorem witness_ResetGivesTheResetValues :
    (flying 3#32 5 [.resetAssert]).rst = false ∧ (flying 3#32 5 [.resetAssert]).inputs = .resetAssert :: [] ∧
    (flying 3#32 5 [.resetAssert]).held = [] ∧
    (inReset [.resetRelease]).rst = true ∧ ResetQuiet (inReset [.resetRelease]) ∧
    (inReset [.access (at32 .read 0x3C 0#32)]).inputs = .access (at32 .read 0x3C 0#32) :: [] ∧
    AtOffset (at32 .read 0x3C 0#32) 0x3C ∧
    ({ idleWith [.resetAssert] with held := [at32 .write 0x08 0#32] } : State).held ≠ [] :=
  ⟨rfl, rfl, rfl, rfl, ⟨fun _ _ _ h => (by cases h), fun h => (by cases h)⟩, rfl, ⟨rfl, by decide⟩, nofun⟩

theorem witness_ResetAndInitAgree :
    (idleWith [.resetAssert]).rst = false ∧ (idleWith [.resetAssert]).inputs = .resetAssert :: [] ∧
    (idleWith [.resetAssert]).held = [] := ⟨rfl, rfl, rfl⟩

theorem witness_IdleCoreKeepsItsState :
    (Idle State.reset ∧ State.reset.inputs = []) ∧
    (Idle (idleWith [.quiet]) ∧ (idleWith [.quiet]).inputs = .quiet :: []) ∧
    (Idle (idleWith [.resetRelease]) ∧ (idleWith [.resetRelease]).inputs = .resetRelease :: []) ∧
    LegalAccess (at32 .read 0x04 0#32) ∧ LegalAccess (at32 .read 0x3C 0#32) ∧ LegalAccess (at32 .write 0x00 1#32) :=
  ⟨⟨⟨rfl, rfl, rfl⟩, rfl⟩, ⟨⟨rfl, rfl, rfl⟩, rfl⟩, ⟨⟨rfl, rfl, rfl⟩, rfl⟩, ⟨_, .readStatus, windowOffset_base 0x04 (by decide), rfl⟩,
    ⟨_, .readDigest 7, windowOffset_base 0x3C (by decide), rfl⟩, ⟨_, .writeCmd, windowOffset_base 0x00 (by decide), rfl⟩⟩

/-- A FINALIZE commits from a state that meets the invariant. -/
theorem witness_EveryStepKeepsTheInvariant :
    Inv (flying 3#32 0 []) ∧ ∃ t, step (flying 3#32 0 []) = .next t :=
  ⟨⟨by decide, by decide, ⟨[], ⟨rfl, rfl, rfl⟩, nofun⟩, nofun, nofun⟩, _, rfl⟩

/-- The two states differ: in a cell of BUF above BUFLEN. -/
theorem witness_UnspecifiedStateIsNeverRead :
    AgreeOnSpecified State.reset { State.reset with buf := Vector.replicate 64 0xFF#8 } ∧
    State.reset ≠ { State.reset with buf := Vector.replicate 64 0xFF#8 } :=
  ⟨⟨rfl, rfl, rfl, rfl, rfl, rfl, rfl, rfl, rfl, ⟨rfl, rfl, rfl, rfl⟩, rfl, rfl⟩, by decide⟩

theorem witness_EveryAcceptedCommandCommits :
    (flying 0x42#32 7 [.access (at32 .read 0x04 0#32)]).rst = false ∧
    (flying 0x42#32 7 [.access (at32 .read 0x04 0#32)]).pend = some 0x42#32 ∧
    (∀ i ∈ (flying 0x42#32 7 [.access (at32 .read 0x04 0#32)]).inputs, i ≠ .resetAssert) :=
  ⟨rfl, rfl, fun i h => by rw [List.mem_singleton.mp h]; nofun⟩

theorem witness_CommandsLookAtomic : Idle State.reset ∧ State.reset.inputs = [] := ⟨⟨rfl, rfl, rfl⟩, rfl⟩

theorem witness_HashProgramReadsSm3 :
    Idle State.reset ∧ State.reset.inputs = [] ∧ ([] : List Byte).length < 2 ^ 61 ∧ (as 3).length < 2 ^ 61 :=
  ⟨⟨rfl, rfl, rfl⟩, rfl, by norm_num, Nat.lt_of_le_of_lt (m := 8) (by decide) (by norm_num)⟩

end Sys2Proof.Tests
end

section
/-! PROOFS. What one step does to the state, said once: the effect of the commit of each command, the elements that every
other step leaves alone, and the reset values. -/

namespace Sys2Proof.Machine

/-! ### The commit -/

/-- A word that decodes to an UPDATE carries a byte count of at most 4 (R60, R61). -/
theorem decode_update_le {c : Word} {nb : BitVec 3} (h : decode c = .ok (.update nb)) : nb.toNat ≤ 4 := by
  unfold decode decodeBare decodeUpdate at h
  split_ifs at h <;> cases h
  assumption

/-- The commit of a legal word is its command's meaning with PEND cleared (R82, R83). -/
theorem step_commit_ok {c : Word} {s : State} {i : Instr} (hc : Commits c s) (hd : decode c = .ok i) :
    step s = exec i (clearPend s) := by
  rw [step_of_commits hc, commit, hd]

/-- The commit of an illegal word sets ILL (R99). -/
theorem step_commit_error {c : Word} {s : State} {e : DecodeError} (hc : Commits c s) (hd : decode c = .error e) :
    step s = .next (recordIllegal (clearPend s)) := by
  rw [step_of_commits hc, commit, hd]

/-- The commit of UPDATE 0 only clears PEND (R86). -/
theorem step_commit_update_zero {c : Word} {s : State} (hc : Commits c s) (hd : decode c = .ok (.update 0#3)) :
    step s = .next (clearPend s) := by
  rw [step_commit_ok hc hd]; rfl

/-- The commit of UPDATE n, n ≥ 1, absorbs the chunk and clears DVALID (R86). -/
theorem step_commit_update_pos {c : Word} {s : State} {nb : BitVec 3} (hc : Commits c s)
    (hd : decode c = .ok (.update nb)) (h0 : nb ≠ 0#3) :
    step s = .next (clearDvalid (absorb (s.tail ++ updateChunk nb s.datain) (addLength nb (clearPend s)))) := by
  have h1 := BitVec.toNat_pos_of_ne_zero h0
  rw [step_commit_ok hc hd]
  exact execUpdate_of_pos nb (clearPend s) h1 (decode_update_le hd)

/-- What a commit can do: one case for each kind of word (R83 to R89, R99). -/
inductive CommitEffect (c : Word) (s t : State) : Prop
  | illegal (e : DecodeError) (hd : decode c = .error e) (ht : t = recordIllegal (clearPend s))
  | nop (hd : decode c = .ok .nop) (ht : t = clearPend s)
  | init (hd : decode c = .ok .init) (ht : t = freshContext (clearPend s))
  | updateNone (hd : decode c = .ok (.update 0#3)) (ht : t = clearPend s)
  | update (nb : BitVec 3) (hd : decode c = .ok (.update nb)) (h4 : nb.toNat ≤ 4)
      (ht : t = clearDvalid (absorb (s.tail ++ updateChunk nb s.datain) (addLength nb (clearPend s))))
  | finalize (hd : decode c = .ok .finalize) (ht : t = writeDigest (clearPend s))

theorem commitEffect_of_step {c : Word} {s t : State} (hc : Commits c s) (h : step s = .next t) : CommitEffect c s t := by
  cases hd : decode c with
  | error e =>
    rw [step_commit_error hc hd] at h
    cases h; exact .illegal e hd rfl
  | ok i =>
    cases i with
    | nop => rw [step_commit_ok hc hd] at h; cases h; exact .nop hd rfl
    | init => rw [step_commit_ok hc hd] at h; cases h; exact .init hd rfl
    | finalize => rw [step_commit_ok hc hd] at h; cases h; exact .finalize hd rfl
    | update nb =>
      by_cases h0 : nb = 0#3
      · subst h0
        rw [step_commit_update_zero hc hd] at h
        cases h; exact .updateNone hd rfl
      · rw [step_commit_update_pos hc hd h0] at h
        cases h; exact .update nb hd (decode_update_le hd) rfl

/-! ### Every kind of step -/

/-- The hashing context, DIGEST, the flags DVALID and ILL and the reset input are the same in both states. -/
structure SameContext (s t : State) : Prop where
  v : t.v = s.v
  buf : t.buf = s.buf
  buflen : t.buflen = s.buflen
  len : t.len = s.len
  digest : t.digest = s.digest
  dvalid : t.dvalid = s.dvalid
  ill : t.ill = s.ill
  rst : t.rst = s.rst

/-- The buffered bytes are then the same too. -/
theorem SameContext.tail {s t : State} (h : SameContext s t) : t.tail = s.tail := by
  rw [State.tail, State.tail, h.buf, h.buflen]

theorem takeInput_sameContext (s : State) : SameContext s (takeInput s) := by
  obtain ⟨hv, hb, hl, hn, hd, hdv, hi, -, hr⟩ := takeInput_frame s
  exact ⟨hv, hb, hl, hn, hd, hdv, hi, hr⟩

theorem serveIdle_sameContext (s : State) : SameContext s (serveIdle s) := by
  obtain ⟨hv, hb, hl, hn, hd, hdv, hi, -, hr⟩ := serveIdle_frame s
  exact ⟨hv, hb, hl, hn, hd, hdv, hi, hr⟩

/-- What a step to a next state can be: reset, a commit, an input taken while a command waits, or an access served while
none is in flight; the last two leave the hashing context alone. -/
inductive StepEffect (s t : State) : Prop
  | reset (hr : s.rst = true ∨ resetNext s = true) (b : Bool)
      (ht : t = setReset b (applyReset (setInputs s.inputs.tail s)))
  | commit (c : Word) (hc : Commits c s) (he : CommitEffect c s t)
  | waits (h1 : s.rst = false) (h2 : resetNext s = false) (hn : ∀ c, ¬ Commits c s) (hp : s.pend ≠ none) (n : Nat)
      (ht : t = takeInput (tick n s)) (hs : SameContext s t)
  | serves (h1 : s.rst = false) (h2 : resetNext s = false) (hn : ∀ c, ¬ Commits c s) (hp : s.pend = none)
      (ht : t = serveIdle s) (hs : SameContext s t)

theorem stepEffect_of_step {s t : State} (h : step s = .next t) : StepEffect s t := by
  obtain ⟨hr, b, ht⟩ | ⟨-, -, c, hc, -⟩ | ⟨h1, h2, hn, n, hp, -, rfl⟩ | ⟨h1, h2, hn, hp, rfl⟩ := step_next h
  · exact .reset hr b ht
  · exact .commit c hc (commitEffect_of_step hc h)
  · obtain ⟨hv, hb, hl, hm, hd, hdv, hi, hrs⟩ := takeInput_sameContext (tick n s)
    exact .waits h1 h2 hn hp n rfl ⟨hv, hb, hl, hm, hd, hdv, hi, hrs⟩
  · exact .serves h1 h2 hn hp rfl (serveIdle_sameContext s)

/-- No command commits in a step of reset (R103). -/
theorem not_commits_of_reset {c : Word} {s : State} (hr : s.rst = true ∨ resetNext s = true) : ¬ Commits c s := by
  rintro ⟨h1, h2, -, -⟩
  simp [h1, h2] at hr

/-- A step in which no command commits, outside reset, leaves the hashing context, DIGEST and the flags alone. -/
theorem sameContext_of_no_commit {s t : State} (h : step s = .next t) (hn : ∀ c, ¬ Commits c s) (h1 : s.rst = false)
    (h2 : resetNext s = false) : SameContext s t := by
  cases stepEffect_of_step h with
  | reset hr => simp [h1, h2] at hr
  | commit c hc => exact absurd hc (hn c)
  | waits _ _ _ _ _ _ hs => exact hs
  | serves _ _ _ _ _ hs => exact hs

/-- A step of reset gives the reset values (R113). -/
theorem applyReset_of_step {s t : State} (h : step s = .next t) (hr : s.rst = true ∨ resetNext s = true) :
    ∃ b, t = setReset b (applyReset (setInputs s.inputs.tail s)) := by
  cases stepEffect_of_step h with
  | reset _ b ht => exact ⟨b, ht⟩
  | commit c hc => exact absurd hc (not_commits_of_reset hr)
  | waits h1 h2 => simp [h1, h2] at hr
  | serves h1 h2 => simp [h1, h2] at hr

/-- A step is stopped only where RESET_QUIET is broken (R98, R113). -/
theorem step_next_iff_resetQuiet (s : State) : (∃ t, step s = .next t) ↔ ResetQuiet s := by
  obtain ⟨hr, e⟩ | ⟨hr, hn, e⟩ | ⟨c, ⟨h1, h2, -⟩, e⟩ | ⟨n, h1, h2, -, -, e⟩ | ⟨h1, h2, -, e⟩ := step_cases s
  · rw [e]
    obtain ⟨hq, b, e', -⟩ | ⟨hq, e'⟩ := stepInReset_cases s hr
    · exact iff_of_true ⟨_, e'⟩ hq
    · exact iff_of_false (by simp [e']) hq
  · rw [e]
    obtain ⟨hq, -, e'⟩ | ⟨hq, e'⟩ := stepResetAssert_cases s hr hn
    · exact iff_of_true ⟨_, e'⟩ hq
    · exact iff_of_false (by simp [e']) hq
  · obtain ⟨t, ht, -⟩ := commit_completes c s
    simp [e, ht, ResetQuiet, h1, h2]
  · simp [e, ResetQuiet, h1, h2]
  · simp [e, ResetQuiet, h1, h2]

/-- No step is refused (R12). -/
theorem step_ne_refused (s : State) (r : Refusal) : step s ≠ .refused r := by
  obtain ⟨hr, e⟩ | ⟨hr, hn, e⟩ | ⟨c, -, e⟩ | ⟨n, -, -, -, -, e⟩ | ⟨-, -, -, e⟩ := step_cases s
  · obtain ⟨-, b, e', -⟩ | ⟨-, e'⟩ := stepInReset_cases s hr <;> simp [e, e']
  · obtain ⟨-, -, e'⟩ | ⟨-, e'⟩ := stepResetAssert_cases s hr hn <;> simp [e, e']
  · obtain ⟨t, ht, -⟩ := commit_completes c s
    simp [e, ht]
  · simp [e]
  · simp [e]

/-! ### The port of a step outside reset -/

/-- An input taken while a command is in flight leaves PEND and DATAIN alone and holds at most one legal access (R44). -/
theorem takeInput_busy {s : State} (h : s.busy = true) :
    (takeInput s).pend = s.pend ∧ (takeInput s).datain = s.datain ∧
    ((takeInput s).held = s.held ∨ ∃ a, ordinary a = true ∧ (takeInput s).held = s.held ++ [a]) := by
  obtain ⟨-, e⟩ | ⟨a, rest, -, e⟩ | ⟨i, rest, -, -, e⟩ := takeInput_cases s
  · rw [e]; exact ⟨rfl, rfl, .inl rfl⟩
  · rw [e]
    obtain ⟨hp, hd, -, -, hh⟩ := receive_busy a (setInputs rest s) h
    exact ⟨hp, hd, hh.imp_right fun ⟨ho, hh⟩ => ⟨a, ho, hh⟩⟩
  · rw [e]; exact ⟨rfl, rfl, .inl rfl⟩

/-- Serving an idle core only drops an input, or receives one access, the first held or the next delivered, which it takes
from the port (R44, R50). -/
theorem serveIdle_cases (s : State) :
    (∃ is, serveIdle s = setInputs is s) ∨
    (∃ a hs is, (s.held.head? = some a ∨ s.inputs.head? = some (.access a)) ∧ hs ⊆ s.held ∧
      serveIdle s = receive a (setHeld hs (setInputs is s))) := by
  unfold serveIdle
  cases hh : s.held with
  | cons a rest => exact .inr ⟨a, rest, s.inputs, .inl rfl, List.subset_cons_self a rest, rfl⟩
  | nil =>
    have hself : ∀ u : State, u.held = [] → setHeld [] u = u := fun u hu => by rw [← hu]; rfl
    obtain ⟨hi, e⟩ | ⟨a, rest, hi, e⟩ | ⟨i, rest, -, -, e⟩ := takeInput_cases s
    · exact .inl ⟨s.inputs, e⟩
    · exact .inr ⟨a, [], rest, .inr (by rw [hi]; rfl), List.nil_subset _, e.trans (by rw [hself (setInputs rest s) hh])⟩
    · exact .inl ⟨rest, e⟩

/-- An idle core holds no new access (R44). -/
theorem serveIdle_held_subset {s : State} (hp : s.pend = none) : (serveIdle s).held ⊆ s.held := by
  obtain ⟨is, e⟩ | ⟨a, hs, is, -, hsub, e⟩ := serveIdle_cases s
  · rw [e]; exact List.Subset.refl _
  · have hb : (setHeld hs (setInputs is s)).busy = false := by simp [State.busy, hp]
    rw [e, receive_idle_held a _ hb]
    exact hsub

/-- An idle core changes DATAIN and PEND only by the performance of a write of DATAIN or of CMD (R47, R81). -/
theorem serveIdle_writes {s : State} (hp : s.pend = none) :
    ((serveIdle s).datain = s.datain ∨ ∃ a, MayPerformWrite a 0x08 s ∧ (serveIdle s).datain = a.value) ∧
    ((serveIdle s).pend = s.pend ∨ ∃ a, MayPerformWrite a 0x00 s ∧ (serveIdle s).pend = some a.value) := by
  obtain ⟨is, e⟩ | ⟨a, hs, is, hfirst, -, e⟩ := serveIdle_cases s
  · rw [e]; exact ⟨.inl rfl, .inl rfl⟩
  · have hb : (setHeld hs (setInputs is s)).busy = false := by simp [State.busy, hp]
    obtain ⟨hd, hc⟩ := receive_idle_writes a _ hb
    rw [e]
    exact ⟨hd.imp_right fun ⟨hk, hz, hoff, hv⟩ => ⟨a, ⟨hp, hfirst, hk, hz, hoff⟩, hv⟩,
      hc.imp_right fun ⟨hk, hz, hoff, hv⟩ => ⟨a, ⟨hp, hfirst, hk, hz, hoff⟩, hv⟩⟩

end Sys2Proof.Machine
end

section
/-! PROOFS. The invariant of R17 and R25: each command carries the message supplied so far on to the next state, and no
other step touches it. -/

namespace Sys2Proof.Machine

/-! ### The message a state holds -/

/-- A state that holds a message has BUFLEN = LEN mod 64: both are the message's length mod 64 (R17 (c)). -/
theorem Represents.len_mod {m : List Byte} {s : State} (h : Represents m s) :
    s.len.toNat % 64 = s.buflen.toNat := by
  obtain ⟨-, htail, hlen⟩ := h
  rw [hlen, ← tail_length, htail, tailBytes_length, BitVec.toNat_ofNat]
  omega

/-- A state with a fresh context holds the empty message (R85). -/
theorem represents_nil {s : State} (hv : s.v = iv) (htail : s.tail = []) (hlen : s.len = 0#64) : Represents [] s :=
  ⟨hv, htail, hlen⟩

/-- UPDATE appends its chunk to the message (R86, R87). -/
theorem Represents.update {m : List Byte} {s : State} (h : Represents m s) (nb : BitVec 3) (h4 : nb.toNat ≤ 4) :
    Represents (m ++ updateChunk nb s.datain)
      (clearDvalid (absorb (s.tail ++ updateChunk nb s.datain) (addLength nb s))) := by
  obtain ⟨hv, htail, hlen⟩ := h
  refine ⟨?_, ?_, ?_⟩
  · simp only [clearDvalid_v, absorb_v, addLength_v, hv, htail, blockCount]
    exact (compressBlocks_whole_append iv m _).symm
  · simp only [clearDvalid_tail, absorb_tail, htail]
    exact (tailBytes_append m _).symm
  · have hnb : nb.setWidth 64 = BitVec.ofNat 64 nb.toNat := (BitVec.ofNat_toNat 64 nb).symm
    simp only [clearDvalid_len, absorb_len, addLength_len, hlen, hnb, List.length_append, updateChunk_length nb _ h4,
      BitVec.ofNat_add]

/-- The words FINALIZE computes are those of SM3 of the message the state holds (R89, R94). -/
theorem Represents.finalWords_eq {m : List Byte} {s : State} (h : Represents m s) :
    finalWords s.v s.tail s.len = sm3Words m := by
  obtain ⟨hv, htail, hlen⟩ := h
  rw [sm3Words_eq_finalWords, hv, htail, hlen]

/-! ### The digest that DVALID = 1 vouches for -/

/-- The state holds some message, and DIGEST is that message's digest whenever DVALID = 1 (R17, R25). -/
def HoldsMessage (s : State) : Prop := ∃ m, Represents m s ∧ (s.dvalid = true → s.digest = sm3Words m)

/-- It is a matter of the hashing context, DIGEST and DVALID alone. -/
theorem HoldsMessage.of_same {s t : State} (h : HoldsMessage s) (hv : t.v = s.v) (htail : t.tail = s.tail)
    (hlen : t.len = s.len) (hdig : t.digest = s.digest) (hdv : t.dvalid = s.dvalid) : HoldsMessage t := by
  obtain ⟨m, ⟨hv', htail', hlen'⟩, hd⟩ := h
  exact ⟨m, ⟨hv.trans hv', htail.trans htail', hlen.trans hlen'⟩, by rw [hdig, hdv]; exact hd⟩

theorem SameContext.holdsMessage {s t : State} (h : SameContext s t) (hs : HoldsMessage s) : HoldsMessage t :=
  hs.of_same h.v h.tail h.len h.digest h.dvalid

/-- With DVALID = 0 there is nothing to vouch for. -/
theorem Represents.holdsMessage {m : List Byte} {s : State} (h : Represents m s) (hd : s.dvalid = false) :
    HoldsMessage s :=
  ⟨m, h, by simp [hd]⟩

theorem holdsMessage_setReset_applyReset (b : Bool) (s : State) : HoldsMessage (setReset b (applyReset s)) :=
  (represents_nil rfl (by simp) rfl).holdsMessage rfl

/-- Every commit keeps it. -/
theorem CommitEffect.holdsMessage {c : Word} {s t : State} (he : CommitEffect c s t) (h : HoldsMessage s) :
    HoldsMessage t := by
  cases he with
  | illegal e hd ht => subst ht; exact h.of_same rfl rfl rfl rfl rfl
  | nop hd ht => subst ht; exact h.of_same rfl rfl rfl rfl rfl
  | updateNone hd ht => subst ht; exact h.of_same rfl rfl rfl rfl rfl
  | init hd ht => subst ht; exact (represents_nil rfl (by simp) rfl).holdsMessage rfl
  | update nb hd h4 ht =>
    subst ht
    obtain ⟨m, hm, -⟩ := h
    have hm' : Represents m (clearPend s) := hm
    exact (hm'.update nb h4).holdsMessage rfl
  | finalize hd ht =>
    subst ht
    obtain ⟨m, hm, -⟩ := h
    exact ⟨m, hm, fun _ => hm.finalWords_eq⟩

/-! ### The accesses held -/

/-- Only accesses R44 may hold are held. -/
def HoldsOrdinary (s : State) : Prop := ∀ a ∈ s.held, ordinary a = true

theorem HoldsOrdinary.takeInput_tick {s : State} (h : HoldsOrdinary s) (hp : s.pend ≠ none) (n : Nat) :
    HoldsOrdinary (takeInput (tick n s)) := by
  have hb : (tick n s).busy = true := Option.isSome_iff_ne_none.mpr hp
  intro a ha
  obtain ⟨-, -, hh | ⟨x, hx, hh⟩⟩ := takeInput_busy hb
  · exact h a (by rwa [hh] at ha)
  · rw [hh, List.mem_append, List.mem_singleton] at ha
    obtain ha | rfl := ha
    · exact h a ha
    · exact hx

theorem HoldsOrdinary.serveIdle {s : State} (h : HoldsOrdinary s) (hp : s.pend = none) :
    HoldsOrdinary (serveIdle s) :=
  fun a ha => h a (serveIdle_held_subset hp ha)

/-! ### The invariant -/

/-- Its two clauses on BUFLEN follow from the width of BUFLEN and from the message held. -/
theorem inv_iff (s : State) :
    Inv s ↔ HoldsMessage s ∧ HoldsOrdinary s ∧ (s.rst = true → s.pend = none ∧ s.held = []) := by
  refine ⟨fun ⟨_, _, hm, ho, hr⟩ => ⟨hm, ho, hr⟩, fun ⟨hm, ho, hr⟩ => ⟨s.buflen.isLt, ?_, hm, ho, hr⟩⟩
  obtain ⟨m, hm, -⟩ := hm
  exact hm.len_mod

/-- A step outside reset ends outside reset, where the last clause of the invariant asks nothing. -/
theorem inv_of_rst_eq_false {s : State} (hm : HoldsMessage s) (ho : HoldsOrdinary s) (hr : s.rst = false) : Inv s :=
  (inv_iff s).mpr ⟨hm, ho, by simp [hr]⟩

/-- Nothing is held in a state from which a step of reset is made: the invariant says so while reset is asserted, and
RESET_QUIET when it comes (R113). -/
theorem held_nil_of_reset_step {s t : State} (hi : Inv s) (h : step s = .next t)
    (hr : s.rst = true ∨ resetNext s = true) : s.held = [] := by
  obtain ⟨-, -, hrst⟩ := (inv_iff s).mp hi
  obtain ⟨-, hquiet⟩ := (step_next_iff_resetQuiet s).mp ⟨t, h⟩
  cases h1 : s.rst with
  | true => exact (hrst h1).2
  | false => exact hquiet h1 (by simpa [h1] using hr)

end Sys2Proof.Machine

open Sys2Proof Sys2Proof.Machine

/-- Settles O42: reset gives the empty message, a commit keeps that the state holds a message, and every other step leaves
the hashing context alone and holds only what R44 may hold. -/
theorem everyStepKeepsTheInvariant : Obligations.EveryStepKeepsTheInvariant := by
  intro s t hi h
  obtain ⟨hm, ho, -⟩ := (inv_iff s).mp hi
  cases stepEffect_of_step h with
  | reset hr b ht =>
    have hheld := held_nil_of_reset_step hi h hr
    subst ht
    exact (inv_iff _).mpr ⟨holdsMessage_setReset_applyReset b _, by simp [HoldsOrdinary, hheld], by simp [hheld]⟩
  | commit c hc he =>
    obtain ⟨t', ht', -, hrst, hheld, -⟩ := commit_completes c s
    rw [step_of_commits hc, ht'] at h
    cases h
    exact inv_of_rst_eq_false (he.holdsMessage hm) (by rwa [HoldsOrdinary, hheld]) (hrst.trans hc.1)
  | waits h1 _ _ hp n ht hs =>
    subst ht
    exact inv_of_rst_eq_false (hs.holdsMessage hm) (ho.takeInput_tick hp n) (hs.rst.trans h1)
  | serves h1 _ _ hp ht hs =>
    subst ht
    exact inv_of_rst_eq_false (hs.holdsMessage hm) (ho.serveIdle hp) (hs.rst.trans h1)

/-- Settles O43: the reset state holds the empty message, with DVALID = 0 and nothing held. -/
theorem resetMeetsTheInvariant : Obligations.ResetMeetsTheInvariant :=
  inv_of_rst_eq_false ((represents_nil rfl rfl rfl).holdsMessage rfl) (fun _ ha => absurd ha List.not_mem_nil) rfl
end

section
/-! PROOFS. The fields of the STATUS word and the reset values; then, over every step, who changes ILL, DVALID, V and the
other registers. -/

namespace Sys2Proof.Machine

/-! ### The STATUS word -/

@[simp] theorem getLsbD_flagWord (b : Bool) (i : Nat) : (flagWord b).getLsbD i = (decide (i = 0) && b) := by
  cases b <;> cases i <;> simp [flagWord]

/-- Bit by bit, the STATUS word is the three flags and BUFLEN from bit 8 (R25). -/
theorem statusWord_getLsbD (s : State) (i : Nat) (hi : i < 32) :
    (statusWord s).getLsbD i =
      if i = 0 then s.pend.isSome else if i = 1 then s.dvalid else if i = 2 then s.ill
      else decide (8 ≤ i) && s.buflen.getLsbD (i - 8) := by
  simp only [statusWord, BitVec.getLsbD_or, BitVec.getLsbD_shiftLeft, BitVec.getLsbD_setWidth, getLsbD_flagWord]
  by_cases h0 : i = 0
  · subst h0; simp [State.busy]
  by_cases h1 : i = 1
  · subst h1; simp
  by_cases h2 : i = 2
  · subst h2; simp
  have h : i - 2 ≠ 0 ∧ i - 1 ≠ 0 ∧ i - 8 < 32 := by omega
  simp [hi, h0, h1, h2, h, ← decide_not]

/-! ### The values after an UPDATE -/

/-- An UPDATE compresses nothing, or the one block its chunk completes (R86, R87). -/
theorem compressBlocks_update (v : Vector Word 8) {s : State} {nb : BitVec 3} (h4 : nb.toNat ≤ 4) :
    compressBlocks (blockCount (s.tail ++ updateChunk nb s.datain)) v (s.tail ++ updateChunk nb s.datain) = v ∨
    ∃ b, compressBlocks (blockCount (s.tail ++ updateChunk nb s.datain)) v (s.tail ++ updateChunk nb s.datain) =
      cf v b := by
  have ht := tail_length_lt s
  have hn : blockCount (s.tail ++ updateChunk nb s.datain) = 0 ∨ blockCount (s.tail ++ updateChunk nb s.datain) = 1 := by
    rw [blockCount, List.length_append, updateChunk_length nb _ h4]
    omega
  rcases hn with hn | hn <;> rw [hn]
  · exact .inl rfl
  · exact .inr ⟨_, rfl⟩

/-- A commit writes LEN, DIGEST, BUFLEN and the buffered bytes only for the commands that own them (R85, R86, R89). -/
theorem CommitEffect.writers {c : Word} {s t : State} (he : CommitEffect c s t) :
    (t.len = s.len ∨ (∃ nb, decode c = .ok (.update nb) ∧ t.len = s.len + nb.setWidth 64) ∨
      (decode c = .ok .init ∧ t.len = 0#64)) ∧
    (t.digest = s.digest ∨ decode c = .ok .finalize) ∧
    ((t.buflen = s.buflen ∧ t.tail = s.tail) ∨ (∃ nb, decode c = .ok (.update nb)) ∨
      (decode c = .ok .init ∧ t.buflen = 0#6 ∧ t.tail = [])) := by
  cases he with
  | illegal _ _ ht => rw [ht]; exact ⟨.inl rfl, .inl rfl, .inl ⟨rfl, rfl⟩⟩
  | nop _ ht => rw [ht]; exact ⟨.inl rfl, .inl rfl, .inl ⟨rfl, rfl⟩⟩
  | updateNone _ ht => rw [ht]; exact ⟨.inl rfl, .inl rfl, .inl ⟨rfl, rfl⟩⟩
  | init hd ht =>
    rw [ht]
    exact ⟨.inr (.inr ⟨hd, rfl⟩), .inl rfl, .inr (.inr ⟨hd, rfl, freshContext_tail _⟩)⟩
  | update nb hd _ ht => rw [ht]; exact ⟨.inr (.inl ⟨nb, hd, rfl⟩), .inl rfl, .inr (.inl ⟨nb, hd⟩)⟩
  | finalize hd ht => rw [ht]; exact ⟨.inl rfl, .inr hd, .inl ⟨rfl, rfl⟩⟩

end Sys2Proof.Machine

open Sys2Proof Sys2Proof.Machine

/-- Settles O25, from the bits of the STATUS word. -/
theorem statusWordFields : Obligations.StatusWordFields := by
  intro s
  refine ⟨?_, ?_, ?_, ?_, ?_, ?_⟩
  · rw [statusWord_getLsbD s 0 (by decide), if_pos rfl]
  · rw [statusWord_getLsbD s 1 (by decide), if_neg (by decide), if_pos rfl]
  · rw [statusWord_getLsbD s 2 (by decide), if_neg (by decide), if_neg (by decide), if_pos rfl]
  · apply BitVec.eq_of_getLsbD_eq
    intro i hi
    have h : 3 + i ≠ 0 ∧ 3 + i ≠ 1 ∧ 3 + i ≠ 2 ∧ ¬ 8 ≤ 3 + i := by omega
    simp [BitVec.getLsbD_extractLsb', statusWord_getLsbD s (3 + i) (by omega), h]
  · apply BitVec.eq_of_getLsbD_eq
    intro i hi
    have h : 8 + i ≠ 1 ∧ 8 + i ≠ 2 := by omega
    simp [statusWord_getLsbD s (8 + i) (by omega), h, hi]
  · apply BitVec.eq_of_getLsbD_eq
    intro i hi
    have h : 14 + i ≠ 1 ∧ 14 + i ≠ 2 := by omega
    have hz : s.buflen.getLsbD (14 + i - 8) = false := BitVec.getLsbD_of_ge _ _ (by omega)
    simp [BitVec.getLsbD_extractLsb', statusWord_getLsbD s (14 + i) (by omega), h, hz]

/-- Settles O39: the reset state is written with these values. -/
theorem resetStateValues : Obligations.ResetStateValues :=
  ⟨rfl, rfl, rfl, rfl, fun _ h => Vector.getElem_replicate h, rfl, rfl, rfl, rfl⟩

/-- Settles O34: a commit has its command's effect, every other step keeps the flags; and whether a step is made depends on
RESET_QUIET alone, which does not read ILL. -/
theorem illChangesOnlyByItsRule : Obligations.IllChangesOnlyByItsRule := by
  intro s t h
  refine ⟨?_, ?_, ?_, ?_, ?_⟩
  · intro c e hc hd
    rw [step_commit_error hc hd] at h
    cases h; rfl
  · intro c hc hd
    rw [step_commit_ok hc hd] at h
    cases h; rfl
  · intro hr
    obtain ⟨b, rfl⟩ := applyReset_of_step h hr
    rfl
  · intro hother h1 h2
    cases stepEffect_of_step h with
    | reset hr => simp [h1, h2] at hr
    | waits _ _ _ _ _ _ hs => exact hs.ill
    | serves _ _ _ _ _ hs => exact hs.ill
    | commit c hc he =>
      obtain ⟨hinit, hillegal⟩ := hother c hc
      cases he with
      | illegal e hd => exact absurd hd (hillegal e)
      | init hd => exact absurd hd hinit
      | nop _ ht => rw [ht]; rfl
      | updateNone _ ht => rw [ht]; rfl
      | update _ _ _ ht => rw [ht]; rfl
      | finalize _ ht => rw [ht]; rfl
  · intro b
    exact (step_next_iff_resetQuiet { s with ill := b }).mpr ((step_next_iff_resetQuiet s).mp ⟨t, h⟩)

/-- Settles O35: each commit by its command's effect, reset by the reset values, and every other step keeps DVALID. -/
theorem dvalidChangesOnlyByItsRule : Obligations.DvalidChangesOnlyByItsRule := by
  intro s t h
  refine ⟨?_, ?_, ?_, ?_, ?_, ?_, ?_, ?_⟩
  · intro c hc hd
    rw [step_commit_ok hc hd] at h
    cases h; rfl
  · intro c hc hd
    rw [step_commit_ok hc hd] at h
    cases h; rfl
  · intro c nb hc hd h0
    rw [step_commit_update_pos hc hd h0] at h
    cases h; rfl
  · intro c hc hd
    rw [step_commit_update_zero hc hd] at h
    cases h; rfl
  · intro c hc hd
    rw [step_commit_ok hc hd] at h
    cases h; rfl
  · intro c e hc hd
    rw [step_commit_error hc hd] at h
    cases h; rfl
  · intro hr
    obtain ⟨b, rfl⟩ := applyReset_of_step h hr
    rfl
  · intro hn h1 h2
    exact (sameContext_of_no_commit h hn h1 h2).dvalid

/-- Settles O36: of the commits only INIT's and UPDATE's write V, and an UPDATE completes at most one block. -/
theorem chainingStateChangesByWholeBlocks : Obligations.ChainingStateChangesByWholeBlocks := by
  intro s t h
  cases stepEffect_of_step h with
  | reset hr b ht => exact .inr (.inr ⟨by rw [ht]; rfl, hr.imp_right .inl⟩)
  | waits _ _ _ _ _ _ hs => exact .inl hs.v
  | serves _ _ _ _ _ hs => exact .inl hs.v
  | commit c hc he =>
    cases he with
    | illegal _ _ ht => exact .inl (by rw [ht]; rfl)
    | nop _ ht => exact .inl (by rw [ht]; rfl)
    | updateNone _ ht => exact .inl (by rw [ht]; rfl)
    | finalize _ ht => exact .inl (by rw [ht]; rfl)
    | init hd ht => exact .inr (.inr ⟨by rw [ht]; rfl, .inr (.inr ⟨c, hc, hd⟩)⟩)
    | update nb hd h4 ht =>
      subst ht
      exact (compressBlocks_update s.v h4).imp_right fun ⟨b, hb⟩ => .inl ⟨c, nb, b, hc, hd, hb⟩

/-- Settles O37: a step that commits has its command's effect on the context and clears PEND; one that does not leaves the
context alone, and changes DATAIN and PEND only as an idle core that performs a write. -/
theorem registersChangeOnlyByTheirWriters : Obligations.RegistersChangeOnlyByTheirWriters := by
  intro s t h h1 h2
  have hbusy : t.busy = true ↔ t.pend ≠ none := Option.isSome_iff_ne_none
  cases stepEffect_of_step h with
  | reset hr => simp [h1, h2] at hr
  | waits _ _ hn hp n ht hs =>
    have hb : (tick n s).busy = true := Option.isSome_iff_ne_none.mpr hp
    obtain ⟨hpend, hdatain, -⟩ := takeInput_busy hb
    rw [← ht] at hpend hdatain
    exact ⟨.inl hs.len, .inl hdatain, .inl hs.digest, .inl ⟨hs.buflen, hs.tail⟩, .inl hpend,
      fun c hc => absurd hc (hn c), hbusy⟩
  | serves _ _ hn hp ht hs =>
    obtain ⟨hdatain, hpend⟩ := serveIdle_writes hp
    rw [← ht] at hpend hdatain
    exact ⟨.inl hs.len, hdatain, .inl hs.digest, .inl ⟨hs.buflen, hs.tail⟩, hpend.imp_right .inl,
      fun c hc => absurd hc (hn c), hbusy⟩
  | commit c hc he =>
    obtain ⟨t', ht', hpend, -, -, -, -, hdatain, -⟩ := commit_completes c s
    rw [step_of_commits hc, ht'] at h
    cases h
    obtain ⟨hlen, hdigest, hbuf⟩ := he.writers
    exact ⟨hlen.imp_right (Or.imp (fun ⟨nb, hd, e⟩ => ⟨c, nb, hc, hd, e⟩) fun ⟨hd, e⟩ => ⟨c, hc, hd, e⟩),
      .inl hdatain, hdigest.imp_right fun hd => ⟨c, hc, hd⟩,
      hbuf.imp_right (Or.imp (fun ⟨nb, hd⟩ => ⟨c, nb, hc, hd⟩) fun ⟨hd, e⟩ => ⟨c, hc, hd, e⟩),
      .inr (.inr ⟨hpend, c, hc⟩), fun _ _ => hpend, hbusy⟩
end

section
/-! PROOFS. R38: a state that differs from another only in the unspecified state is that state with other values put there, and
every operation of a step either carries those values along or writes over them. -/

namespace Sys2Proof.Machine

/-- The state with other values in BUF and in the scratch state. -/
def withUnspecified (b : Vector Byte 64) (x : Scratch) (s : State) : State := { s with buf := b, scratch := x }

/-- Two states that agree on the specified state differ in BUF and the scratch state only (R38). -/
theorem AgreeOnSpecified.eq_withUnspecified {s t : State} (h : AgreeOnSpecified s t) :
    t = withUnspecified t.buf t.scratch s := by
  obtain ⟨hv, -, hbuflen, hlen, hdatain, hdigest, hdvalid, hill, hpend, ⟨hrst, hheld, hinputs, hresp⟩, hwait, hdraws⟩ := h
  rw [withUnspecified, ← hv, ← hbuflen, ← hlen, ← hdatain, ← hdigest, ← hdvalid, ← hill, ← hpend, ← hrst, ← hheld,
    ← hinputs, ← hresp, ← hwait, ← hdraws]

section
variable {s : State} {b : Vector Byte 64} {x : Scratch}

/-- Other values there that leave the buffered bytes alone change nothing that is specified. -/
theorem agree_withUnspecified (h : (withUnspecified b x s).tail = s.tail) :
    AgreeOnSpecified s (withUnspecified b x s) :=
  ⟨rfl, h, rfl, rfl, rfl, rfl, rfl, rfl, rfl, ⟨rfl, rfl, rfl, rfl⟩, rfl, rfl⟩

/-! ### The port carries the unspecified state along -/

theorem receive_withUnspecified (a : Access) :
    receive a (withUnspecified b x s) = withUnspecified b x (receive a s) := by
  have hbusy : (withUnspecified b x s).busy = s.busy := rfl
  unfold receive
  rw [hbusy]
  cases windowOffset a.addr with
  | none => rfl
  | some off =>
    cases hc : busCheck a.kind off a.size with
    | error e => simp only [hc]; rfl
    | ok op =>
      simp only [hc]
      split
      · rfl
      · cases op <;> rfl

theorem takeInput_withUnspecified : takeInput (withUnspecified b x s) = withUnspecified b x (takeInput s) := by
  have hinputs : (withUnspecified b x s).inputs = s.inputs := rfl
  unfold takeInput
  rw [hinputs]
  cases s.inputs with
  | nil => rfl
  | cons i rest =>
    cases i with
    | access a => exact receive_withUnspecified (s := setInputs rest s) a
    | resetAssert => rfl
    | resetRelease => rfl
    | quiet => rfl

theorem serveIdle_withUnspecified : serveIdle (withUnspecified b x s) = withUnspecified b x (serveIdle s) := by
  have hheld : (withUnspecified b x s).held = s.held := rfl
  unfold serveIdle
  rw [hheld]
  cases s.held with
  | nil => exact takeInput_withUnspecified
  | cons a rest => exact receive_withUnspecified (s := setHeld rest s) a

/-- A step that leaves BUFLEN and BUF alone carries the agreement along. -/
theorem SameContext.agree_withUnspecified {u : State} (hs : SameContext s u)
    (h : (withUnspecified b x s).tail = s.tail) : AgreeOnSpecified u (withUnspecified b x u) := by
  have htail : (withUnspecified b x u).tail = (withUnspecified b x s).tail :=
    congrArg (fun n : BitVec 6 => b.toList.take n.toNat) hs.buflen
  exact Machine.agree_withUnspecified (htail.trans (h.trans hs.tail.symm))

end

/-! ### The outcomes of a step -/

/-- Both outcomes are next states that agree on the specified state, or both are the same fault. -/
def AgreeingOutcomes (o p : StepOutcome) : Prop :=
  (∃ s' t', o = .next s' ∧ p = .next t' ∧ AgreeOnSpecified s' t') ∨ (∃ f, o = .fault f ∧ p = .fault f)

/-- An outcome agrees with itself, unless it is a refusal. -/
theorem agreeingOutcomes_self {o : StepOutcome} (h : ∀ r, o ≠ .refused r) : AgreeingOutcomes o o := by
  cases o with
  | next s => exact .inl ⟨s, s, rfl, rfl, agree_withUnspecified rfl⟩
  | fault f => exact .inr ⟨f, rfl, rfl⟩
  | refused r => exact absurd rfl (h r)

section
variable {s : State} {b : Vector Byte 64} {x : Scratch}

/-- A command reads BUF only through the buffered bytes, and the scratch state not at all (R38, R84 to R89). -/
theorem exec_withUnspecified (i : Instr) (h : (withUnspecified b x s).tail = s.tail) :
    AgreeingOutcomes (exec i s) (exec i (withUnspecified b x s)) := by
  have hdatain : (withUnspecified b x s).datain = s.datain := rfl
  cases i with
  | nop => exact .inl ⟨_, _, rfl, rfl, agree_withUnspecified h⟩
  | init => exact .inl ⟨_, _, rfl, rfl, agree_withUnspecified (s := freshContext s) (x := x) rfl⟩
  | finalize =>
    have e : writeDigest (withUnspecified b x s) =
        withUnspecified b (Config.freeScratch s.draws) (writeDigest s) := by
      rw [writeDigest, h]; rfl
    exact .inl ⟨_, _, rfl, rfl, e ▸ agree_withUnspecified h⟩
  | update nb =>
    simp only [exec, execUpdate, h, hdatain]
    split
    · exact .inl ⟨_, _, rfl, rfl, agree_withUnspecified h⟩
    · split
      · exact .inl ⟨_, _, rfl, rfl, agree_withUnspecified rfl⟩
      · exact .inl ⟨_, _, rfl, rfl, agree_withUnspecified h⟩

theorem commit_withUnspecified (c : Word) (h : (withUnspecified b x s).tail = s.tail) :
    AgreeingOutcomes (commit c s) (commit c (withUnspecified b x s)) := by
  unfold commit
  cases decode c with
  | ok i => exact exec_withUnspecified (s := clearPend s) i h
  | error e => exact .inl ⟨_, _, rfl, rfl, agree_withUnspecified (s := recordIllegal (clearPend s)) h⟩

/-- Reset writes over all of it (R37). -/
theorem stepInReset_withUnspecified : stepInReset (withUnspecified b x s) = stepInReset s := rfl

theorem stepResetAssert_withUnspecified : stepResetAssert (withUnspecified b x s) = stepResetAssert s := rfl

end

/-- A step reads nothing unspecified: reset writes over it, the port carries it along, and a commit is a command's (R38). -/
theorem step_withUnspecified {s : State} {b : Vector Byte 64} {x : Scratch}
    (h : (withUnspecified b x s).tail = s.tail) : AgreeingOutcomes (step s) (step (withUnspecified b x s)) := by
  obtain ⟨hr, e⟩ | ⟨hr, hn, e⟩ | ⟨c, hc, e⟩ | ⟨n, h1, h2, h3, h4, e⟩ | ⟨h1, h2, h3, e⟩ := step_cases s
  · have e' : step (withUnspecified b x s) = step s := by
      rw [e, ← stepInReset_withUnspecified (b := b) (x := x)]
      exact if_pos hr
    rw [e']
    exact agreeingOutcomes_self (step_ne_refused s)
  · have e' : step (withUnspecified b x s) = step s := by
      rw [e, ← stepResetAssert_withUnspecified (b := b) (x := x)]
      exact (if_neg (by simp [withUnspecified, hr])).trans (if_pos hn)
    rw [e']
    exact agreeingOutcomes_self (step_ne_refused s)
  · have hc' : Commits c (withUnspecified b x s) := hc
    rw [e, step_of_commits hc']
    exact commit_withUnspecified c h
  · rw [e, step_of_waiting (s := withUnspecified b x s) h1 h2 h3 h4]
    refine .inl ⟨_, _, rfl, rfl, ?_⟩
    have e' : takeInput (tick n (withUnspecified b x s)) = withUnspecified b x (takeInput (tick n s)) :=
      takeInput_withUnspecified (s := tick n s)
    rw [e']
    exact (takeInput_sameContext (tick n s)).agree_withUnspecified h
  · rw [e, step_of_idle (s := withUnspecified b x s) h1 h2 h3, serveIdle_withUnspecified]
    exact .inl ⟨_, _, rfl, rfl, (serveIdle_sameContext s).agree_withUnspecified h⟩

end Sys2Proof.Machine

open Sys2Proof Sys2Proof.Machine

/-- Settles O45: the second state is the first with other values in the unspecified state, and a step from it agrees with the
first's. -/
theorem unspecifiedStateIsNeverRead : Obligations.UnspecifiedStateIsNeverRead := by
  intro s t h
  have htail : t.tail = s.tail := h.2.1
  rw [AgreeOnSpecified.eq_withUnspecified h] at htail ⊢
  exact step_withUnspecified htail
end

section
/-! PROOFS. The port: what the checks of R43 answer for each access, what receiving an access does in each of their cases, and
what a step does that takes an access from the port. -/

namespace Sys2Proof.Machine

/-! ### The checks -/

/-- An access at an offset of the window has that offset (R39, R55). -/
theorem windowOffset_of_atOffset {a : Access} {off : Nat} (h : AtOffset a off) :
    windowOffset a.addr = some ⟨off, h.2⟩ :=
  (congrArg windowOffset h.1).trans (windowOffset_base off h.2)

/-- A size other than 4 fails first (R41). -/
theorem busCheck_of_size_ne {size : Nat} (k : AccessKind) (off : Fin 64) (h : size ≠ 4) :
    busCheck k off size = .error .beSize := if_pos h

/-- The second check is the alignment (R41). -/
theorem busCheck_of_unaligned (k : AccessKind) {off : Fin 64} (h : off.val % 4 ≠ 0) :
    busCheck k off 4 = .error .beAlign := if_pos h

/-- The third check is for the reserved offsets, which are aligned (R42). -/
theorem busCheck_of_reserved (k : AccessKind) {off : Fin 64} (h : off.val = 0x0C ∨ off.val = 0x18 ∨ off.val = 0x1C) :
    busCheck k off 4 = .error .beUnmapped := by
  have hal : ¬ off.val % 4 ≠ 0 := by omega
  exact (if_neg hal).trans (if_pos h)

section
variable {off : Fin 64} (hal : off.val % 4 = 0) (hres : ¬ (off.val = 0x0C ∨ off.val = 0x18 ∨ off.val = 0x1C))
include hal hres

/-- A read of an aligned word that is not reserved is left to the register's direction (R42). -/
theorem busCheck_read_eq : busCheck .read off 4 = readOp off.val :=
  (if_neg (not_not.mpr hal)).trans (if_neg hres)

/-- So is a write. -/
theorem busCheck_write_eq : busCheck .write off 4 = writeOp off.val :=
  (if_neg (not_not.mpr hal)).trans (if_neg hres)

end

/-- Every register but CMD can be read (R42). -/
theorem readOp_ok {off : Nat} (h : off ≠ 0x00) : ∃ op, readOp off = .ok op := by
  unfold readOp
  rw [if_neg h]
  split_ifs <;> exact ⟨_, rfl⟩

/-- Only CMD and DATAIN can be written (R42). -/
theorem writeOp_error {off : Nat} (h0 : off ≠ 0x00) (h8 : off ≠ 0x08) : writeOp off = .error .beDirection :=
  (if_neg h0).trans (if_neg h8)

/-! ### Receiving an access, case by case -/

theorem receive_eq_self_of_outside {a : Access} (s : State) (h : windowOffset a.addr = none) : receive a s = s := by
  simp only [receive, h]

section
variable {a : Access} {off : Nat} (hoff : AtOffset a off)
include hoff

theorem receive_eq_respond_error (s : State) {e : BusError} (hc : busCheck a.kind ⟨off, hoff.2⟩ a.size = .error e) :
    receive a s = respond a (.error e) s := by
  simp only [receive, windowOffset_of_atOffset hoff, hc]

/-- A legal access is performed with no command in flight, and a read of STATUS always (R44). -/
theorem receive_eq_perform {s : State} {op : BusOp} (hc : busCheck a.kind ⟨off, hoff.2⟩ a.size = .ok op)
    (hb : s.busy = false ∨ op = .readStatus) : receive a s = perform op a s := by
  have hn : ¬ (s.busy = true ∧ op ≠ .readStatus) := by
    rintro ⟨h1, h2⟩
    exact hb.elim (by simp [h1]) h2
  simp only [receive, windowOffset_of_atOffset hoff, hc, if_neg hn]

end

/-- The accesses R44 may hold: inside the window, legal, and no read of STATUS. -/
theorem ordinary_iff (a : Access) :
    ordinary a = true ↔ ∃ off op, ∃ h : AtOffset a off,
      busCheck a.kind ⟨off, h.2⟩ a.size = .ok op ∧ op ≠ .readStatus := by
  constructor
  · intro ho
    unfold ordinary at ho
    split at ho
    · cases ho
    · next off hw =>
      split at ho
      · cases ho
      · next op hc => exact ⟨off.val, op, ⟨windowOffset_some hw, off.isLt⟩, hc, of_decide_eq_true ho⟩
  · rintro ⟨off, op, h, hc, hne⟩
    simp [ordinary, windowOffset_of_atOffset h, hc, hne]

/-- While a command is in flight such an access is held (R44). -/
theorem receive_eq_hold {a : Access} {s : State} (ho : ordinary a = true) (hb : s.busy = true) :
    receive a s = hold a s := by
  obtain ⟨off, op, h, hc, hne⟩ := (ordinary_iff a).mp ho
  have hh : s.busy = true ∧ op ≠ .readStatus := ⟨hb, hne⟩
  simp only [receive, windowOffset_of_atOffset h, hc, if_pos hh]

/-- Performing an access does not depend on the accesses held (R43). -/
theorem perform_setHeld (op : BusOp) (a : Access) (as : List Access) (s : State) :
    perform op a (setHeld as s) = setHeld as (perform op a s) := by
  cases op <;> rfl

/-! ### A step that takes an access from the port -/

section
variable {a : Access} {rest : List Input} {s : State} (hr : Receives a rest s)
include hr

/-- The step receives the access; only the wait of a command in flight also changes (R43, R123). -/
theorem step_of_receives :
    ∃ n, (s.pend = none → n = s.wait) ∧ step s = .next (receive a (tick n (setInputs rest s))) := by
  obtain ⟨hi, hs⟩ := hr
  have hn : resetNext s = false := by simp [resetNext, hi]
  have htake : ∀ u : State, u.inputs = .access a :: rest → takeInput u = receive a (setInputs rest u) := by
    intro u hu
    simp only [takeInput, hu]
  obtain ⟨hrst, hp, hh⟩ | ⟨hrst, hp, hw⟩ := hs
  · refine ⟨s.wait, fun _ => rfl, ?_⟩
    have hserve : serveIdle s = takeInput s := by simp only [serveIdle, hh]
    rw [step_of_idle hrst hn hp, hserve, htake s hi]
    rfl
  · refine ⟨s.wait - 1, fun h => absurd h hp, ?_⟩
    rw [step_of_waiting (n := s.wait - 1) hrst hn hp (by omega), htake (tick (s.wait - 1) s) hi]
    rfl

/-- An access that fails a check is answered with the error in that step (R43, R100). -/
theorem step_answers_error {off : Nat} (hoff : AtOffset a off) {e : BusError}
    (hc : busCheck a.kind ⟨off, hoff.2⟩ a.size = .error e) :
    ∃ n, step s = .next (respond a (.error e) (tick n (setInputs rest s))) := by
  obtain ⟨n, -, hstep⟩ := step_of_receives hr
  exact ⟨n, by rw [hstep, receive_eq_respond_error hoff _ hc]⟩

/-- A legal access that is not held is performed in that step (R43). -/
theorem step_performs {off : Nat} (hoff : AtOffset a off) {op : BusOp}
    (hc : busCheck a.kind ⟨off, hoff.2⟩ a.size = .ok op) (hb : s.pend = none ∨ op = .readStatus) :
    ∃ n, (s.pend = none → n = s.wait) ∧ step s = .next (perform op a (tick n (setInputs rest s))) := by
  obtain ⟨n, hn, hstep⟩ := step_of_receives hr
  refine ⟨n, hn, ?_⟩
  have hbusy : (tick n (setInputs rest s)).busy = false ∨ op = .readStatus := hb.imp_left fun h => by
    simp [State.busy, h]
  rw [hstep, receive_eq_perform hoff hc hbusy]

end

/-! ### The words reads return -/

/-- The word a read returns (R45); none for a write. -/
def readValue (s : State) : BusOp → Option Word
  | .readStatus => some (statusWord s)
  | .readDatain => some s.datain
  | .readLenlo => some (s.len.extractLsb' 0 32)
  | .readLenhi => some (s.len.extractLsb' 32 32)
  | .readDigest i => some s.digest[i]
  | .writeCmd => none
  | .writeDatain => none

/-- No read has a side effect (R45). -/
theorem perform_of_readValue {s : State} {op : BusOp} {x : Word} (a : Access) (h : readValue s op = some x) :
    perform op a s = respond a (.data x) s := by
  cases op with
  | writeCmd => cases h
  | writeDatain => cases h
  | _ => cases h; rfl

/-- DIGEST[i] is read at offset 0x20 + 4i (R40). -/
theorem busCheck_read_digest (i : Fin 8) (h : 0x20 + 4 * i.val < 64) :
    busCheck .read ⟨0x20 + 4 * i.val, h⟩ 4 = .ok (.readDigest i) := by
  revert i; decide

/-! ### The bytes of DATAIN -/

theorem datainBytes_getElem? (d : Word) {k : Nat} (h : k < 4) :
    (datainBytes d)[k]? = some (d.extractLsb' (24 - 8 * k) 8) := by
  interval_cases k <;> rfl

/-- The four bytes of a word, read big-endian, are the word (R9). -/
theorem be32_extractLsb' (d : Word) :
    be32 (d.extractLsb' 24 8) (d.extractLsb' 16 8) (d.extractLsb' 8 8) (d.extractLsb' 0 8) = d := by
  apply BitVec.eq_of_getLsbD_eq
  intro i hi
  simp only [be32_getLsbD, BitVec.getLsbD_extractLsb']
  split_ifs with h1 h2 h3
  · simp [h1]
  · simp [show i - 8 < 8 by omega, show 8 + (i - 8) = i by omega]
  · simp [show i - 16 < 8 by omega, show 16 + (i - 16) = i by omega]
  · simp [show i - 24 < 8 by omega, show 24 + (i - 24) = i by omega]

end Sys2Proof.Machine

open Sys2Proof Sys2Proof.Machine

/-- Settles O26: at each of the five offsets the step performs the read of that register, which only answers. -/
theorem readsAnswerAndChangeNothing : Obligations.ReadsAnswerAndChangeNothing := by
  intro s m rest v off x hs hi hx
  have hop : ∃ (hlt : off < 64) (op : BusOp), busCheck .read ⟨off, hlt⟩ 4 = .ok op ∧ readValue s op = some x ∧
      (off = 0x04 → op = .readStatus) := by
    obtain ⟨rfl, rfl⟩ | ⟨rfl, rfl⟩ | ⟨rfl, rfl⟩ | ⟨rfl, rfl⟩ | ⟨i, rfl, rfl⟩ := hx
    · exact ⟨by decide, .readStatus, rfl, rfl, fun _ => rfl⟩
    · exact ⟨by decide, .readDatain, rfl, rfl, by decide⟩
    · exact ⟨by decide, .readLenlo, rfl, rfl, by decide⟩
    · exact ⟨by decide, .readLenhi, rfl, rfl, by decide⟩
    · exact ⟨by omega, .readDigest i, busCheck_read_digest i _, rfl, by omega⟩
  obtain ⟨hlt, op, hc, hv, hstatus⟩ := hop
  have hr : Receives ⟨m, .read, Config.sm3Base + off, 4, v⟩ rest s := ⟨hi, hs.imp_right And.left⟩
  have hb : s.pend = none ∨ op = .readStatus := hs.imp (fun hidle => hidle.2.1) fun hf => hstatus hf.2
  obtain ⟨n, hn, hstep⟩ := step_performs hr ⟨rfl, hlt⟩ hc hb
  have hv' : readValue (tick n (setInputs rest s)) op = some x := hv
  refine ⟨n, s.scratch, fun hp => ⟨hn hp, rfl⟩, ?_⟩
  rw [hstep, perform_of_readValue _ hv']
  rfl

/-- Settles O27: the step performs the write; an idle core has no wait to count down. -/
theorem writesStoreOrIssue : Obligations.WritesStoreOrIssue := by
  intro s m rest v hidle
  have hp : s.pend = none := hidle.2.1
  constructor
  · intro hi
    have hc : busCheck .write 0x08 4 = .ok .writeDatain := rfl
    obtain ⟨n, hn, hstep⟩ := step_performs ⟨hi, .inl hidle⟩ ⟨rfl, by decide⟩ hc (.inl hp)
    rw [hstep, hn hp]
    rfl
  · intro hi
    have hc : busCheck .write 0x00 4 = .ok .writeCmd := rfl
    obtain ⟨n, -, hstep⟩ := step_performs ⟨hi, .inl hidle⟩ ⟨rfl, by decide⟩ hc (.inl hp)
    exact ⟨_, hstep, rfl, rfl, ⟨rfl, rfl, rfl, rfl, rfl, rfl, rfl, rfl, rfl⟩, rfl, rfl, rfl, rfl, rfl⟩

/-- Settles O28: each malformed access fails the check named, and an access that fails one is only answered; an access that
fails none of the first three is left to the register's direction. -/
theorem malformedAccessesAnsweredAtOnce : Obligations.MalformedAccessesAnsweredAtOnce := by
  constructor
  · intro s a rest off e hr hoff hbad
    have hc : busCheck a.kind ⟨off, hoff.2⟩ a.size = .error e := by
      obtain ⟨hsize, rfl⟩ | ⟨hsize, hal, rfl⟩ | ⟨hsize, hres, rfl⟩ | ⟨hsize, hk, rfl, rfl⟩ | ⟨hsize, hk, hro, rfl⟩ := hbad
      · exact busCheck_of_size_ne _ _ hsize
      · rw [hsize]; exact busCheck_of_unaligned _ hal
      · rw [hsize]; exact busCheck_of_reserved _ hres
      · rw [hsize, hk]; rfl
      · have hdir : off % 4 = 0 ∧ ¬ (off = 0x0C ∨ off = 0x18 ∨ off = 0x1C) ∧ off ≠ 0x00 ∧ off ≠ 0x08 := by omega
        obtain ⟨hal, hres, h0, h8⟩ := hdir
        rw [hsize, hk]
        exact (busCheck_write_eq hal hres).trans (writeOp_error h0 h8)
    obtain ⟨n, hstep⟩ := step_answers_error hr hoff hc
    exact ⟨_, hstep, ⟨rfl, rfl, rfl, rfl, rfl, rfl, rfl, rfl, rfl⟩, rfl, rfl, rfl, rfl⟩
  · intro kind off hal h0C h18 h1C hread hwrite
    have hres : ¬ (off.val = 0x0C ∨ off.val = 0x18 ∨ off.val = 0x1C) := by simp [h0C, h18, h1C]
    cases kind with
    | read => rw [busCheck_read_eq hal hres]; exact readOp_ok (hread rfl)
    | write =>
      rw [busCheck_write_eq hal hres]
      obtain h | h := hwrite rfl <;> rw [h]
      · exact ⟨.writeCmd, rfl⟩
      · exact ⟨.writeDatain, rfl⟩

/-- Settles O29: in flight, an ordinary access is held and a STATUS read performed; with no command in flight the first held
access is performed as it would be if just delivered, since performing does not depend on what is held. -/
theorem busyHoldsLegalAccesses : Obligations.BusyHoldsLegalAccesses := by
  refine ⟨?_, ?_, ?_⟩
  · intro s a rest hi hf ho
    obtain ⟨n, -, hstep⟩ := step_of_receives ⟨hi, .inr hf⟩
    have hb : (tick n (setInputs rest s)).busy = true := Option.isSome_iff_ne_none.mpr hf.2.1
    rw [receive_eq_hold ho hb] at hstep
    exact ⟨_, hstep, ⟨rfl, rfl, rfl, rfl, rfl, rfl, rfl, rfl, rfl⟩, rfl, rfl, rfl, rfl⟩
  · intro s m v rest hi hf
    have hc : busCheck .read 0x04 4 = .ok .readStatus := rfl
    obtain ⟨n, -, hstep⟩ := step_performs ⟨hi, .inr hf⟩ ⟨rfl, by decide⟩ hc (.inr rfl)
    obtain ⟨hbusy, hdvalid, hill, -, hbuflen, -⟩ := statusWordFields s
    exact ⟨_, statusWord s, hstep, ⟨rfl, rfl, rfl, rfl, rfl, rfl, rfl, rfl, rfl⟩, rfl, rfl, rfl, rfl,
      hbusy.trans (Option.isSome_iff_ne_none.mpr hf.2.1), hdvalid, hill, hbuflen⟩
  · intro s a rest hrst hp hheld hn ho
    obtain ⟨off, op, hoff, hc, -⟩ := (ordinary_iff a).mp ho
    have hb : ∀ as, (setHeld as s).busy = false := fun as => by simp [State.busy, hp]
    have ht : step s = .next (setHeld rest (perform op a s)) := by
      rw [step_of_idle hrst hn hp, ← perform_setHeld, ← receive_eq_perform hoff hc (.inl (hb rest))]
      simp only [serveIdle, hheld]
    have hu : step { s with held := [], inputs := .access a :: s.inputs } = .next (setHeld [] (perform op a s)) := by
      rw [← perform_setHeld, ← receive_eq_perform hoff hc (.inl (hb []))]
      exact step_of_idle hrst rfl hp
    obtain ⟨-, -, -, -, -, -, -, -, -, -, hinputs, r, hresp⟩ := perform_frame op a s
    exact ⟨_, _, r, ht, hu, rfl, hinputs, hresp⟩

/-- Settles O17: an UPDATE's chunk is the first n of the four bytes. -/
theorem datainPacking : Obligations.DatainPacking := by
  intro d
  refine ⟨fun k hk => datainBytes_getElem? d hk, ?_, be32_extractLsb' d⟩
  intro nb h4
  exact ⟨updateChunk_length nb d h4, fun k hk => List.getElem?_take_of_lt hk⟩

/-- Settles O30: such an access has no offset in the window. -/
theorem accessesOutsideTheWindowPass : Obligations.AccessesOutsideTheWindowPass := by
  intro s a rest hr hout
  obtain ⟨n, -, hstep⟩ := step_of_receives hr
  rw [receive_eq_self_of_outside _ (windowOffset_outside _ hout)] at hstep
  exact ⟨_, hstep, ⟨rfl, rfl, rfl, rfl, rfl, rfl, rfl, rfl, rfl⟩, rfl, rfl, rfl, rfl⟩
end

section
/-! PROOFS. The encoding of commands: a command word is its three fields, what the decoder answers for each choice of them, and
the statements about legal and illegal words. -/

namespace Sys2Proof.Machine

/-! ### A word and its fields (R57) -/

theorem opField_toNat (c : Word) : (opField c).toNat = c.toNat % 16 := by
  simp [opField]

theorem nbField_toNat (c : Word) : (nbField c).toNat = c.toNat / 16 % 8 := by
  simp [nbField, Nat.shiftRight_eq_div_pow]

theorem rsvField_toNat (c : Word) : (rsvField c).toNat = c.toNat / 128 := by
  have := c.isLt
  simp only [rsvField, BitVec.extractLsb'_toNat, Nat.shiftRight_eq_div_pow]
  omega

/-- The three fields cover the word. -/
theorem eq_of_fields_eq {c d : Word} (hop : opField c = opField d) (hnb : nbField c = nbField d)
    (hrsv : rsvField c = rsvField d) : c = d := by
  have h1 := congrArg BitVec.toNat hop
  have h2 := congrArg BitVec.toNat hnb
  have h3 := congrArg BitVec.toNat hrsv
  rw [opField_toNat, opField_toNat] at h1
  rw [nbField_toNat, nbField_toNat] at h2
  rw [rsvField_toNat, rsvField_toNat] at h3
  apply BitVec.eq_of_toNat_eq
  omega

/-- c[31:4] is NB and RSV together. -/
theorem extractLsb'_4_28_eq_zero_iff (c : Word) :
    c.extractLsb' 4 28 = 0#28 ↔ nbField c = 0#3 ∧ rsvField c = 0#25 := by
  have := c.isLt
  simp only [← BitVec.toNat_inj, nbField_toNat, rsvField_toNat, BitVec.extractLsb'_toNat, Nat.shiftRight_eq_div_pow,
    BitVec.toNat_ofNat]
  omega

theorem fields_commandWord (op : BitVec 4) (nb : BitVec 3) :
    opField (commandWord op nb) = op ∧ nbField (commandWord op nb) = nb ∧ rsvField (commandWord op nb) = 0#25 := by
  revert op nb; decide

/-- The words that carry no reserved bit are the words built from OP and NB. -/
theorem commandWord_eq_iff (op : BitVec 4) (nb : BitVec 3) (c : Word) :
    commandWord op nb = c ↔ opField c = op ∧ nbField c = nb ∧ rsvField c = 0#25 := by
  obtain ⟨hop, hnb, hrsv⟩ := fields_commandWord op nb
  constructor
  · rintro rfl
    exact ⟨hop, hnb, hrsv⟩
  · rintro ⟨h1, h2, h3⟩
    exact eq_of_fields_eq (hop.trans h1.symm) (hnb.trans h2.symm) (hrsv.trans h3.symm)

/-! ### What the decoder answers -/

/-- What the decoder can answer for a word: a well-formed command it is the encoding of (R59, R60), or the first of R61's
causes that applies (log entry 16). -/
inductive Decoding (c : Word) : Except DecodeError Instr → Prop
  | legal (i : Instr) (hwf : i.wf = true) (he : encode i = c) : Decoding c (.ok i)
  | reservedBits (hrsv : rsvField c ≠ 0#25) : Decoding c (.error .reservedBits)
  | reservedOp (hrsv : rsvField c = 0#25) (hop : 4 ≤ (opField c).toNat) : Decoding c (.error .reservedOp)
  | byteCount (hrsv : rsvField c = 0#25) (hop : opField c = 0x2#4) (hnb : 5 ≤ (nbField c).toNat) :
      Decoding c (.error .byteCount)
  | byteCountNotZero (hrsv : rsvField c = 0#25) (hop : opField c = 0x0#4 ∨ opField c = 0x1#4 ∨ opField c = 0x3#4)
      (hnb : nbField c ≠ 0#3) : Decoding c (.error .byteCountNotZero)

/-- An operation is one of R59's four or reserved. -/
theorem op_cases (op : BitVec 4) : op = 0x0#4 ∨ op = 0x1#4 ∨ op = 0x2#4 ∨ op = 0x3#4 ∨ 4 ≤ op.toNat := by
  revert op; decide

/-- The answer for a command without an operand. -/
theorem decoding_decodeBare {c : Word} {i : Instr} {op : BitVec 4} (hrsv : rsvField c = 0#25) (hop : opField c = op)
    (hbare : op = 0x0#4 ∨ op = 0x1#4 ∨ op = 0x3#4) (hwf : i.wf = true) (he : encode i = commandWord op 0#3) :
    Decoding c (decodeBare i (nbField c)) := by
  subst hop
  unfold decodeBare
  split
  · next hnb => exact .legal i hwf (he.trans ((commandWord_eq_iff ..).mpr ⟨rfl, hnb, hrsv⟩))
  · next hnb => exact .byteCountNotZero hrsv hbare hnb

theorem decoding_decodeUpdate {c : Word} (hrsv : rsvField c = 0#25) (hop : opField c = 0x2#4) :
    Decoding c (decodeUpdate (nbField c)) := by
  unfold decodeUpdate
  split
  · next hnb => exact .legal _ (decide_eq_true hnb) ((commandWord_eq_iff ..).mpr ⟨hop, rfl, hrsv⟩)
  · next hnb => exact .byteCount hrsv hop (by omega)

theorem decoding_decode (c : Word) : Decoding c (decode c) := by
  unfold decode
  split_ifs with hrsv h0 h1 h2 h3
  · exact .reservedBits hrsv
  all_goals rw [not_not] at hrsv
  · exact decoding_decodeBare hrsv h0 (by decide) rfl rfl
  · exact decoding_decodeBare hrsv h1 (by decide) rfl rfl
  · exact decoding_decodeUpdate hrsv h2
  · exact decoding_decodeBare hrsv h3 (by decide) rfl rfl
  · have hop := op_cases (opField c)
    simp only [h0, h1, h2, h3, false_or] at hop
    exact .reservedOp hrsv hop

/-- The encoder writes what the decoder reads (R58, R59). -/
theorem decode_encode {i : Instr} (h : i.wf = true) : decode (encode i) = .ok i := by
  cases i with
  | nop => decide
  | init => decide
  | update nb => revert nb; decide
  | finalize => decide

theorem decode_of_decoding {c : Word} {x : Except DecodeError Instr} (h : Decoding c x) : decode c = x := by
  cases h with
  | legal i hwf he => rw [← he, decode_encode hwf]
  | reservedBits hrsv => simp [decode, hrsv]
  | reservedOp hrsv hop =>
    have hne : ∀ op : BitVec 4, op.toNat < 4 → opField c ≠ op := by
      rintro op hlt rfl
      omega
    simp [decode, hrsv, hne]
  | byteCount hrsv hop hnb => simp [decode, decodeUpdate, hrsv, hop, show ¬ (nbField c).toNat ≤ 4 by omega]
  | byteCountNotZero hrsv hop hnb =>
    obtain h | h | h := hop <;> simp [decode, decodeBare, hrsv, h, hnb]

theorem decode_eq_iff (c : Word) (x : Except DecodeError Instr) : decode c = x ↔ Decoding c x :=
  ⟨fun h => h ▸ decoding_decode c, decode_of_decoding⟩

/-! ### Legal words -/

theorem decode_eq_ok_iff (c : Word) (i : Instr) : decode c = .ok i ↔ i.wf = true ∧ encode i = c := by
  rw [decode_eq_iff]
  constructor
  · rintro ⟨⟩
    exact ⟨‹_›, ‹_›⟩
  · exact fun h => .legal i h.1 h.2

/-- R60's formula, on the fields. -/
theorem exists_decode_eq_ok_iff (c : Word) :
    (∃ i, decode c = .ok i) ↔
      ((opField c = 0x0#4 ∨ opField c = 0x1#4 ∨ opField c = 0x3#4) ∧ nbField c = 0#3 ∧ rsvField c = 0#25) ∨
      (opField c = 0x2#4 ∧ (nbField c).toNat ≤ 4 ∧ rsvField c = 0#25) := by
  simp only [decode_eq_ok_iff]
  constructor
  · rintro ⟨i, hwf, he⟩
    cases i with
    | nop => exact .inl (((commandWord_eq_iff ..).mp he).imp_left .inl)
    | init => exact .inl (((commandWord_eq_iff ..).mp he).imp_left (.inr ∘ .inl))
    | finalize => exact .inl (((commandWord_eq_iff ..).mp he).imp_left (.inr ∘ .inr))
    | update nb =>
      obtain ⟨hop, rfl, hrsv⟩ := (commandWord_eq_iff ..).mp he
      exact .inr ⟨hop, of_decide_eq_true hwf, hrsv⟩
  · rintro (⟨hop | hop | hop, h⟩ | ⟨hop, hnb, hrsv⟩)
    · exact ⟨.nop, rfl, (commandWord_eq_iff ..).mpr ⟨hop, h⟩⟩
    · exact ⟨.init, rfl, (commandWord_eq_iff ..).mpr ⟨hop, h⟩⟩
    · exact ⟨.finalize, rfl, (commandWord_eq_iff ..).mpr ⟨hop, h⟩⟩
    · exact ⟨.update (nbField c), decide_eq_true hnb, (commandWord_eq_iff ..).mpr ⟨hop, rfl, hrsv⟩⟩

/-- Every well-formed command has one of the eight words of R59. -/
theorem encode_mem_commandWords {i : Instr} (h : i.wf = true) :
    encode i ∈ [0x00000000#32, 0x00000001#32, 0x00000003#32, 0x00000002#32, 0x00000012#32, 0x00000022#32, 0x00000032#32,
      0x00000042#32] := by
  cases i with
  | nop => decide
  | init => decide
  | update nb => revert nb; decide
  | finalize => decide

/-! ### UPDATE beyond four bytes -/

/-- UPDATE 5, 6 and 7 only set ILL (log entry 10). -/
theorem execUpdate_of_gt (nb : BitVec 3) (s : State) (h : 5 ≤ nb.toNat) : execUpdate nb s = .next (recordIllegal s) := by
  unfold execUpdate
  rw [if_neg (by omega), if_neg (by omega)]

end Sys2Proof.Machine

open Sys2Proof Sys2Proof.Machine

/-- Settles O4: a word decodes to a command exactly when the command is well-formed and the word is its encoding. -/
theorem decodeEncodeAgree : Obligations.DecodeEncodeAgree :=
  ⟨fun _ => decode_encode, fun c i => (decode_eq_ok_iff c i).mp⟩

/-- Settles O1: the words are the encodings of their commands. -/
theorem commandWordsDecode : Obligations.CommandWordsDecode :=
  ⟨decode_encode (i := .nop) rfl, decode_encode (i := .init) rfl, decode_encode (i := .update 0#3) rfl,
    decode_encode (i := .update 1#3) rfl, decode_encode (i := .update 2#3) rfl, decode_encode (i := .update 3#3) rfl,
    decode_encode (i := .update 4#3) rfl, decode_encode (i := .finalize) rfl⟩

/-- Settles O2: the formula is read on the fields, and the eight words are the encodings of the well-formed commands. -/
theorem legalExactlyTheEightWords : Obligations.LegalExactlyTheEightWords := by
  intro c
  constructor
  · rw [extractLsb'_4_28_eq_zero_iff]
    exact exists_decode_eq_ok_iff c
  · constructor
    · rintro ⟨i, h⟩
      obtain ⟨hwf, rfl⟩ := (decode_eq_ok_iff c i).mp h
      exact encode_mem_commandWords hwf
    · obtain ⟨hnop, hinit, hu0, hu1, hu2, hu3, hu4, hfin⟩ := commandWordsDecode
      simp only [List.mem_cons, List.not_mem_nil, or_false]
      rintro (rfl | rfl | rfl | rfl | rfl | rfl | rfl | rfl)
      exacts [⟨_, hnop⟩, ⟨_, hinit⟩, ⟨_, hfin⟩, ⟨_, hu0⟩, ⟨_, hu1⟩, ⟨_, hu2⟩, ⟨_, hu3⟩, ⟨_, hu4⟩]

/-- Settles O3: each cause is one case of what the decoder answers; a word with reserved bits is refused for them, whatever
else it carries. -/
theorem illegalWordsByCause : Obligations.IllegalWordsByCause := by
  intro c
  simp only [decode_eq_iff]
  refine ⟨⟨?_, ?_⟩, ⟨?_, .reservedBits⟩, ⟨?_, fun h => .reservedOp h.1 h.2⟩, ⟨?_, fun h => .byteCount h.1 h.2.1 h.2.2⟩⟩
  · rintro ⟨e, h⟩
    cases h with
    | reservedBits hrsv => exact .inr (.inl hrsv)
    | reservedOp _ hop => exact .inl hop
    | byteCount _ hop hnb => exact .inr (.inr (.inl ⟨hop, hnb⟩))
    | byteCountNotZero _ hop hnb => exact .inr (.inr (.inr ⟨hop, hnb⟩))
  · intro h
    by_cases hrsv : rsvField c = 0#25
    · obtain hop | hne | ⟨hop, hnb⟩ | ⟨hop, hnb⟩ := h
      · exact ⟨_, .reservedOp hrsv hop⟩
      · exact absurd hrsv hne
      · exact ⟨_, .byteCount hrsv hop hnb⟩
      · exact ⟨_, .byteCountNotZero hrsv hop hnb⟩
    · exact ⟨_, .reservedBits hrsv⟩
  · rintro ⟨⟩
    assumption
  · rintro ⟨⟩
    exact ⟨‹_›, ‹_›⟩
  · rintro ⟨⟩
    exact ⟨‹_›, ‹_›, ‹_›⟩

/-- Settles O49: exec takes the branch of an illegal command, and no word carries such a count. -/
theorem updateBeyondFourOnlySetsIll : Obligations.UpdateBeyondFourOnlySetsIll := by
  intro s nb h
  refine ⟨execUpdate_of_gt nb s h, ?_⟩
  intro c hd
  have := decode_update_le hd
  omega
end

section
/-! PROOFS. The rotation bit by bit, and what the bits give: the laws of rotl, P0 and P1 (R66 to R69). -/

namespace Sys2Proof.Machine

/-! ### The rotation (R66) -/

/-- The bits below the count come from the top of the word, the others from the count below them. -/
theorem getLsbD_rotl (x : Word) (n : Nat) {i : Nat} (hi : i < 32) :
    (rotl x n).getLsbD i = x.getLsbD ((i + 32 - n % 32) % 32) := by
  rw [rotl_eq_rotateLeft, BitVec.getLsbD_rotateLeft]
  by_cases h : i < n % 32
  · have hidx : (i + 32 - n % 32) % 32 = 32 - n % 32 + i := by omega
    simp [h, hidx]
  · have hidx : (i + 32 - n % 32) % 32 = i - n % 32 := by omega
    simp [h, hidx, hi]

theorem rotl_mod (x : Word) (n : Nat) : rotl x (n % 32) = rotl x n := by
  simp only [rotl_eq_rotateLeft, BitVec.rotateLeft_mod_eq_rotateLeft]

/-- Counts that agree mod 32 rotate alike. -/
theorem rotl_congr (x : Word) {m n : Nat} (h : m % 32 = n % 32) : rotl x m = rotl x n := by
  rw [← rotl_mod x m, h, rotl_mod]

@[simp] theorem rotl_zero (x : Word) : rotl x 0 = x := rfl

/-- A word whose bits are all the same is fixed by every rotation. -/
theorem rotl_of_getLsbD_const {x : Word} {v : Bool} (hx : ∀ i < 32, x.getLsbD i = v) (n : Nat) : rotl x n = x := by
  apply BitVec.eq_of_getLsbD_eq
  intro i hi
  rw [getLsbD_rotl x n hi, hx _ (Nat.mod_lt _ (by decide)), hx i hi]

@[simp] theorem rotl_zeroWord (n : Nat) : rotl 0#32 n = 0#32 :=
  rotl_of_getLsbD_const (fun _ _ => BitVec.getLsbD_zero) n

@[simp] theorem rotl_onesWord (n : Nat) : rotl 0xFFFFFFFF#32 n = 0xFFFFFFFF#32 :=
  rotl_of_getLsbD_const (v := true) (by decide) n

/-- Rotations compose by adding their counts (R69). -/
theorem rotl_rotl (x : Word) (a b : Nat) : rotl (rotl x a) b = rotl x (a + b) := by
  apply BitVec.eq_of_getLsbD_eq
  intro i hi
  have hidx : ((i + 32 - b % 32) % 32 + 32 - a % 32) % 32 = (i + 32 - (a + b) % 32) % 32 := by omega
  rw [getLsbD_rotl _ b hi, getLsbD_rotl x a (Nat.mod_lt _ (by decide)), getLsbD_rotl x (a + b) hi, hidx]

theorem rotl_comm (x : Word) (a b : Nat) : rotl (rotl x a) b = rotl (rotl x b) a := by
  rw [rotl_rotl, rotl_rotl, Nat.add_comm]

/-! ### The exclusive or of a word and two of its rotations: the form of P0 and P1 (R67, R68) -/

/-- `x ⊕ rotl(x, m) ⊕ rotl(x, n)`. -/
def xorRotations (m n : Nat) (x : Word) : Word := x ^^^ rotl x m ^^^ rotl x n

theorem p0_eq_xorRotations : p0 = xorRotations 9 17 := rfl

theorem p1_eq_xorRotations : p1 = xorRotations 15 23 := rfl

theorem getLsbD_xorRotations (m n : Nat) (x : Word) {i : Nat} (hi : i < 32) :
    (xorRotations m n x).getLsbD i =
      ((x.getLsbD i ^^ x.getLsbD ((i + 32 - m % 32) % 32)) ^^ x.getLsbD ((i + 32 - n % 32) % 32)) := by
  simp only [xorRotations, BitVec.getLsbD_xor, getLsbD_rotl x _ hi]

/-- It is linear over exclusive or, because rotation is. -/
theorem xorRotations_xor (m n : Nat) (x y : Word) :
    xorRotations m n (x ^^^ y) = xorRotations m n x ^^^ xorRotations m n y := by
  simp only [xorRotations, rotl_xor]
  ac_rfl

@[simp] theorem xorRotations_zero (m n : Nat) : xorRotations m n 0#32 = 0#32 := by
  simp [xorRotations]

/-- It commutes with rotation, because rotations commute with one another and are linear. -/
theorem xorRotations_rotl (m n : Nat) (x : Word) (a : Nat) :
    xorRotations m n (rotl x a) = rotl (xorRotations m n x) a := by
  simp only [xorRotations, rotl_xor, rotl_comm x a]

end Sys2Proof.Machine

open Sys2Proof Sys2Proof.Machine

/-- Settles O5: the counts 0, 32 and 36 are taken mod 32, and a word of equal bits is fixed. -/
theorem rotlMovesBits : Obligations.RotlMovesBits := fun x n =>
  ⟨fun _ => getLsbD_rotl x n, (rotl_mod x n).symm, rotl_zero x, rotl_congr x (n := 0) rfl, rotl_congr x rfl,
    rotl_zeroWord n, rotl_onesWord n⟩

/-- Settles O6: a rotation by n puts bit i + 32 - n, mod 32, at bit i. -/
theorem permutationBits : Obligations.PermutationBits := fun x _ hi =>
  ⟨rfl, rfl, getLsbD_xorRotations 9 17 x hi, getLsbD_xorRotations 15 23 x hi⟩

/-- Settles O7: P0 and P1 have the laws of every exclusive or of a word and two of its rotations. -/
theorem permutationLaws : Obligations.PermutationLaws := by
  intro x y a b
  rw [p0_eq_xorRotations, p1_eq_xorRotations]
  exact ⟨rotl_rotl x a b, rotl_xor x y a, xorRotations_xor _ _ x y, xorRotations_xor _ _ x y, xorRotations_zero _ _,
    xorRotations_zero _ _, xorRotations_rotl _ _ x a, xorRotations_rotl _ _ x a⟩
end

section
/-! PROOFS. The expansion of a block: its schedule entry by entry, and its linearity over exclusive or (R70 to R73). -/

namespace Sys2Proof.Machine

/-! ### The schedule (R71 to R73) -/

/-- The first sixteen words are the loaded ones (R71): no step of the recurrence changes them. -/
theorem expandW_eq_loadWord (b : Block) (i : Nat) (h : i < 16) : (expandW b)[i] = loadWord b ⟨i, h⟩ := by
  have e := expandRev_getD b 0 (15 - i) (by omega) (by omega)
  simp only [show 15 + 0 - (15 - i) = i by omega] at e
  rw [← e]
  rw [expandRev, List.getD, List.getElem?_reverse (by simp; omega)]
  simp [h, show 15 - (15 - i) = i by omega]

/-- The later words follow the recurrence on the words of W itself (R72). -/
theorem expandW_recurrence (b : Block) (i : Nat) (h : 16 ≤ i ∧ i < 68) :
    (expandW b)[i] =
      p1 ((expandW b)[i - 16] ^^^ (expandW b)[i - 9] ^^^ rotl ((expandW b)[i - 3]) 15)
        ^^^ rotl ((expandW b)[i - 13]) 7 ^^^ (expandW b)[i - 6] := by
  obtain ⟨n, rfl⟩ := Nat.exists_eq_add_of_le h.1
  have hword (k : Nat) (hk : k < 16) : (expandRev b n).getD k 0#32 = (expandW b)[16 + n - (k + 1)] := by
    rw [expandRev_getD b n k (by omega) (by omega)]
    congr 1
    omega
  rw [expandW_succ b n (by omega), nextW, hword 15 (by decide), hword 8 (by decide), hword 2 (by decide),
    hword 12 (by decide), hword 5 (by decide)]

theorem expandWPrime_getElem (w : Vector Word 68) (i : Nat) (h : i < 64) : (expandWPrime w)[i] = w[i] ^^^ w[i + 4] := by
  simp [expandWPrime]

/-! ### Linearity (R69, R70) -/

theorem p1_xor (x y : Word) : p1 (x ^^^ y) = p1 x ^^^ p1 y := by
  rw [p1_eq_xorRotations, xorRotations_xor]

theorem be32_xor (a0 a1 a2 a3 b0 b1 b2 b3 : Byte) :
    be32 (a0 ^^^ b0) (a1 ^^^ b1) (a2 ^^^ b2) (a3 ^^^ b3) = be32 a0 a1 a2 a3 ^^^ be32 b0 b1 b2 b3 := by
  simp only [be32, ← BitVec.xor_append]

theorem loadWord_xor (b c : Block) (i : Fin 16) :
    loadWord (Vector.zipWith (· ^^^ ·) b c) i = loadWord b i ^^^ loadWord c i := by
  simp only [loadWord, Vector.getElem_zipWith, be32_xor]

/-- The default of `getD` is zero, which is its own exclusive or with itself. -/
theorem getD_zipWith_xor {u v : List Word} (h : u.length = v.length) (k : Nat) :
    (List.zipWith (· ^^^ ·) u v).getD k 0#32 = u.getD k 0#32 ^^^ v.getD k 0#32 := by
  by_cases hk : k < u.length <;> simp [hk, h ▸ hk]

/-- The recurrence is linear in the words so far, because P1 and rotation are (R69, R72). -/
theorem nextW_xor {u v : List Word} (h : u.length = v.length) :
    nextW (List.zipWith (· ^^^ ·) u v) = nextW u ^^^ nextW v := by
  simp only [nextW, getD_zipWith_xor h, p1_xor, rotl_xor]
  ac_rfl

theorem expandRev_xor (b c : Block) (n : Nat) :
    expandRev (Vector.zipWith (· ^^^ ·) b c) n = List.zipWith (· ^^^ ·) (expandRev b n) (expandRev c n) := by
  induction n with
  | zero => simp [expandRev, ← List.reverse_zipWith, List.zipWith_map, loadWord_xor]
  | succ n ih =>
    have hlen : (expandRev b n).length = (expandRev c n).length := by simp only [expandRev_length]
    simp only [expandRev, ih, nextW_xor hlen, List.zipWith_cons_cons]

theorem expandW_xor (b c : Block) :
    expandW (Vector.zipWith (· ^^^ ·) b c) = Vector.zipWith (· ^^^ ·) (expandW b) (expandW c) := by
  have hlen : (expandRev b 52).length = (expandRev c 52).length := by simp only [expandRev_length]
  ext1 i hi
  simp only [expandW, expandRev_xor, getD_zipWith_xor hlen, Vector.getElem_ofFn, Vector.getElem_zipWith]

theorem expandWPrime_xor (v w : Vector Word 68) :
    expandWPrime (Vector.zipWith (· ^^^ ·) v w) = Vector.zipWith (· ^^^ ·) (expandWPrime v) (expandWPrime w) := by
  ext1 i hi
  simp only [Vector.getElem_zipWith, expandWPrime_getElem]
  ac_rfl

/-- The zero block is its own exclusive or with itself, so linearity makes each word `x ⊕ x`. -/
theorem expandW_zeroBlock : expandW (Vector.replicate 64 0#8) = Vector.replicate 68 0#32 := by
  have hself :
      Vector.zipWith (· ^^^ ·) (Vector.replicate 64 0#8) (Vector.replicate 64 0#8) = Vector.replicate 64 0#8 := by
    simp
  rw [← hself, expandW_xor]
  ext1 i hi
  rw [Vector.getElem_zipWith, BitVec.xor_self, Vector.getElem_replicate]

theorem expandWPrime_zeroWords : expandWPrime (Vector.replicate 68 0#32) = Vector.replicate 64 0#32 := by
  ext1 i hi
  rw [expandWPrime_getElem]
  simp only [Vector.getElem_replicate, BitVec.xor_self]

end Sys2Proof.Machine

open Sys2Proof Sys2Proof.Machine

/-- Settles O8: the loaded words stay in place, and the recurrence reads words of W. -/
theorem expansionSchedule : Obligations.ExpansionSchedule := fun b =>
  ⟨expandW_eq_loadWord b, expandW_recurrence b, expandWPrime_getElem (expandW b)⟩

/-- Settles O9: W is linear by induction along the schedule, W′ entry by entry, and linearity takes zero to zero. -/
theorem expansionIsLinear : Obligations.ExpansionIsLinear := by
  intro b c
  refine ⟨expandW_xor b c, ?_, expandW_zeroBlock, expandWPrime_zeroWords⟩
  rw [expandW_xor, expandWPrime_xor]
end

section
/-! PROOFS. The compression engine: the round constant, the boolean functions bit by bit, and the rounds of CF (R76 to R80). -/

namespace Sys2Proof.Machine

/-! ### The round constant (R76) -/

theorem roundT_of_le {j : Nat} (h : j ≤ 15) : roundT j = 0x79CC4519#32 := if_pos h

theorem roundT_of_ge {j : Nat} (h : 16 ≤ j) : roundT j = 0x7A879D8A#32 := if_neg (by omega)

/-- The rotation takes its count mod 32 itself, so any count that agrees with j mod 32 serves. -/
theorem roundConstant_eq_rotl {j n : Nat} (h : j % 32 = n % 32) : roundConstant j = rotl (roundT j) n := by
  rw [roundConstant, rotl_mod, rotl_congr _ h]

/-! ### The boolean functions (R77) -/

section
variable {j : Nat} (x y z : Word)

theorem ff_of_le (h : j ≤ 15) : ff j x y z = x ^^^ y ^^^ z := if_pos h

theorem gg_of_le (h : j ≤ 15) : gg j x y z = x ^^^ y ^^^ z := if_pos h

theorem ff_of_ge (h : 16 ≤ j) : ff j x y z = x &&& y ||| x &&& z ||| y &&& z := if_neg (by omega)

theorem gg_of_ge (h : 16 ≤ j) : gg j x y z = x &&& y ||| ~~~x &&& z := if_neg (by omega)

end

/-- The majority of three bits is the first where the first two agree, and the third where they differ. -/
theorem majority_eq_ite (a b c : Bool) : (a && b || a && c || b && c) = if a = b then a else c := by
  revert a b c
  decide

theorem choose_eq_ite (a b c : Bool) : (a && b || !a && c) = if a = true then b else c := by
  cases a <;> simp

/-! ### The rounds (R79, R80) -/

/-- Round n reads W[n] and W′[n], which both exist: no default is read. -/
theorem roundsFrom_succ (w : Vector Word 68) (r : Work) (n : Nat) (h : n < 64) :
    roundsFrom w r (n + 1) = round n (roundsFrom w r n) w[n] (w[n] ^^^ w[n + 4]) := by
  have hw : w.toList.getD n 0#32 = w[n] := by simp [List.getD, show n < 68 by omega]
  have hw' : (expandWPrime w).toList.getD n 0#32 = w[n] ^^^ w[n + 4] := by
    simp [List.getD, h, expandWPrime_getElem]
  rw [roundsFrom, hw, hw']

end Sys2Proof.Machine

open Sys2Proof Sys2Proof.Machine

/-- Settles O11: each function is one word formula on either side of j = 16, read bit by bit. -/
theorem booleanFunctionBits : Obligations.BooleanFunctionBits := by
  intro j x y z i hi
  constructor
  · intro h
    rw [ff_of_le x y z h, gg_of_le x y z h]
    simp only [BitVec.getLsbD_xor, and_self]
  · intro h
    rw [ff_of_ge x y z h, gg_of_ge x y z h]
    simp only [BitVec.getLsbD_or, BitVec.getLsbD_and, BitVec.getLsbD_not, hi, decide_true, Bool.true_and]
    exact ⟨majority_eq_ite _ _ _, choose_eq_ite _ _ _⟩

/-- Settles O13: the sequence is `roundsFrom`, whose every round reads its words of the schedule. -/
theorem compressionRunsSixtyFourRounds : Obligations.CompressionRunsSixtyFourRounds := fun v b =>
  ⟨roundsFrom (expandW b) (loadWork v), rfl, roundsFrom_succ (expandW b) (loadWork v), rfl⟩

/-- Settles O10: each range of j fixes the constant and a count that agrees with j mod 32. -/
theorem roundConstants : Obligations.RoundConstants := by
  refine ⟨?_, ?_, ?_, by decide⟩
  · intro j h
    rw [roundConstant_eq_rotl rfl, roundT_of_le h]
  · intro j h _
    rw [roundConstant_eq_rotl rfl, roundT_of_ge h]
  · intro j h _
    rw [roundConstant_eq_rotl (Nat.mod_eq_sub_mod h), roundT_of_ge (by omega)]

/-- Settles O12: the model's round names its SS1, SS2, TT1 and TT2 as the rule does. -/
theorem roundFunction : Obligations.RoundFunction := fun _ _ _ _ => rfl

/-- Settles O14: nothing is left free on either side, so the kernel runs CF's 64 rounds on each block. -/
theorem compressionKnownAnswers : Obligations.CompressionKnownAnswers := by
  constructor
  · decide +kernel
  · decide +kernel
end

section
/-! PROOFS. The bytes of the padding and of the digest (R88, R90). -/

namespace Sys2Proof.Machine

/-! ### The padding (R88) -/

/-- The zero count is the least that leaves eight bytes of the last block for the length. -/
theorem padZeros_spec (l : BitVec 64) :
    (l.toNat + 1 + padZeros l) % 64 = 56 ∧ ∀ k, (l.toNat + 1 + k) % 64 = 56 → padZeros l ≤ k := by
  unfold padZeros
  constructor
  · omega
  · intro k hk
    omega

/-- For a tail of LEN mod 64 bytes the length fits in the block of the tail up to 55 bytes, and needs another from 56 on. -/
theorem padZeros_of_tail {n : Nat} {l : BitVec 64} (h : n = l.toNat % 64) :
    (n ≤ 55 → padZeros l = 55 - n) ∧ (56 ≤ n → padZeros l = 119 - n) := by
  unfold padZeros
  omega

/-- The last eight bytes of the padding are the length field. -/
theorem pad_getElem?_field (t : List Byte) (l : BitVec 64) {r : Nat} (h : r < 8) :
    (pad t l)[t.length + 1 + padZeros l + r]? = some ((8#64 * l).extractLsb' (56 - 8 * r) 8) := by
  have hlen : (t ++ [0x80#8] ++ zeros (padZeros l)).length = t.length + 1 + padZeros l := by
    simp only [List.length_append, List.length_singleton, zeros_length]
  rw [pad, ← hlen, List.getElem?_append_right (Nat.le_add_right _ _), Nat.add_sub_cancel_left, be64bytes_getElem? _ r h]

/-! ### The digest (R90) -/

theorem flatMap_bytes32_length (ws : List Word) : (ws.flatMap bytes32).length = 4 * ws.length := by
  induction ws with
  | nil => rfl
  | cons w ws ih => rw [List.flatMap_cons, List.length_append, bytes32_length, ih, List.length_cons]; omega

/-- Word i of a list is serialized at byte 4i, most significant byte first. -/
theorem flatMap_bytes32_getElem? (ws : List Word) {i r : Nat} (hi : i < ws.length) (hr : r < 4) :
    (ws.flatMap bytes32)[4 * i + r]? = some (ws[i].extractLsb' (24 - 8 * r) 8) := by
  induction ws generalizing i with
  | nil => exact absurd hi (Nat.not_lt_zero i)
  | cons w ws ih =>
    cases i with
    | zero =>
      have hr' : 4 * 0 + r < (bytes32 w).length := by rw [bytes32_length]; omega
      rw [List.flatMap_cons, List.getElem?_append_left hr', Nat.mul_zero, Nat.zero_add]
      exact datainBytes_getElem? w hr
    | succ i =>
      have hge : (bytes32 w).length ≤ 4 * (i + 1) + r := by rw [bytes32_length]; omega
      have hsub : 4 * (i + 1) + r - 4 = 4 * i + r := by omega
      rw [List.flatMap_cons, List.getElem?_append_right hge, bytes32_length, hsub]
      exact ih (Nat.lt_of_succ_lt_succ hi)

end Sys2Proof.Machine

open Sys2Proof Sys2Proof.Machine

/-- Settles O15: the zero count of the rule, with the length field in the last eight bytes. -/
theorem padLayout : Obligations.PadLayout := by
  intro t l h
  have hl : BitVec.ofNat 64 (8 * l.toNat) = 8#64 * l := by rw [BitVec.ofNat_mul, BitVec.ofNat_toNat, BitVec.setWidth_eq]
  have hlen := pad_length t l
  obtain ⟨hmod, hleast⟩ := padZeros_spec l
  obtain ⟨hone, htwo⟩ := padZeros_of_tail h
  rw [hl]
  refine ⟨padZeros l, rfl, by omega, fun r hr => pad_getElem?_field t l hr, hmod, hleast, ?_, ?_⟩
  · intro h55
    exact ⟨hone h55, by rw [hlen, hone h55]; omega⟩
  · intro h56
    exact ⟨htwo h56, by rw [hlen, htwo h56]; omega⟩

/-- Settles O16: the words are serialized one after the other, four bytes each. -/
theorem digestSerialization : Obligations.DigestSerialization := by
  intro d
  refine ⟨?_, fun i r hi hr => ?_⟩
  · rw [digestBytes, flatMap_bytes32_length, Vector.length_toList]
  · rw [digestBytes, flatMap_bytes32_getElem? d.toList (by rwa [Vector.length_toList]) hr, Vector.getElem_toList]
end

section
/-! PROOFS. The commands one by one: the state each answers from every state (R84 to R89), and the step that runs it (R82). -/

namespace Sys2Proof.Machine

/-! ### UPDATE (R86) -/

section
variable {s : State} {nb : BitVec 3} (h4 : nb.toNat ≤ 4)
include h4

/-- The buffered bytes with the chunk after them. -/
theorem tail_append_updateChunk_length :
    (s.tail ++ updateChunk nb s.datain).length = s.buflen.toNat + nb.toNat := by
  rw [List.length_append, tail_length, updateChunk_length nb _ h4]

/-- Fewer than 64 bytes are kept whole. -/
theorem blockCount_update_zero (h : s.buflen.toNat + nb.toNat < 64) :
    blockCount (s.tail ++ updateChunk nb s.datain) = 0 := by
  rw [blockCount, tail_append_updateChunk_length h4, Nat.div_eq_of_lt h]

/-- From 64 bytes on there is exactly one block: a chunk has at most four bytes. -/
theorem blockCount_update_one (h : 64 ≤ s.buflen.toNat + nb.toNat) :
    blockCount (s.tail ++ updateChunk nb s.datain) = 1 := by
  have := s.buflen.isLt
  rw [blockCount, tail_append_updateChunk_length h4]
  omega

end

/-- BUFLEN after Absorb counts the bytes after the whole blocks. -/
theorem absorb_buflen_toNat (t : List Byte) (s : State) : (absorb t s).buflen.toNat = t.length % 64 := by
  rw [← tail_length, absorb_tail, tailBytes_length]

/-! ### The placed command (log entry 7) -/

theorem decode_of_decodeTableWord {nbits w : Nat} {i : Instr} (h : decodeTableWord nbits w = some i) :
    decode (tableWord nbits w) = .ok i := by
  unfold decodeTableWord at h
  split at h <;> cases h
  assumption

/-- No reset is left at the head of the inputs, so the placed word commits in the next step. -/
theorem commits_withFetchWord (s : State) (nbits w : Nat) : Commits (tableWord nbits w) (s.withFetchWord nbits w) := by
  refine ⟨rfl, ?_, rfl, rfl⟩
  have h := List.head?_dropWhile_not (fun i : Input => decide (i = .resetAssert)) s.inputs
  refine decide_eq_false fun e => ?_
  rw [State.withFetchWord, placeCommand_inputs, dropResets] at e
  simp [e] at h

end Sys2Proof.Machine

open Sys2Proof Sys2Proof.Machine

/-- Settles O20: with fewer than 64 bytes Absorb compresses nothing, else the one block they complete. -/
theorem updateSuppliesBytes : Obligations.UpdateSuppliesBytes := by
  refine ⟨fun s => rfl, fun s nb h1 h4 => ⟨_, execUpdate_of_pos nb s h1 h4, ?_, rfl, ?_, ?_,
    rfl, rfl, rfl, rfl, rfl, rfl, rfl, rfl⟩⟩
  · simp
  · intro h
    have hcount := blockCount_update_zero (s := s) h4 h
    have hlen := tail_append_updateChunk_length (s := s) h4
    refine ⟨?_, ?_, ?_, ?_⟩
    · rw [clearDvalid_v, absorb_v, hcount]; rfl
    · rw [clearDvalid_tail, absorb_tail, ← absorbRest_eq_tailBytes, absorbRest, hcount]; rfl
    · rw [clearDvalid_buflen, absorb_buflen_toNat, hlen, Nat.mod_eq_of_lt h]
    · rw [clearDvalid_scratch, absorb_scratch, if_pos hcount]; rfl
  · intro h
    have hcount := blockCount_update_one (s := s) h4 h
    have hlen := tail_append_updateChunk_length (s := s) h4
    refine ⟨?_, ?_, ?_⟩
    · rw [clearDvalid_v, absorb_v, hcount]; rfl
    · rw [clearDvalid_tail, absorb_tail, ← absorbRest_eq_tailBytes, absorbRest, hcount]; rfl
    · have := s.buflen.isLt
      rw [clearDvalid_buflen, absorb_buflen_toNat, hlen]
      omega

/-- Settles O21: the padded tail is one block or two, and CF runs over them from V. -/
theorem finalizeWritesDigestOnly : Obligations.FinalizeWritesDigestOnly := by
  refine ⟨by decide, fun s => ⟨_, rfl, rfl, ?_, ?_, rfl, rfl, rfl, rfl, rfl, rfl, rfl, rfl, rfl, rfl, rfl⟩⟩
  all_goals
    intro hmod hfill
    have htail : s.tail.length = s.len.toNat % 64 := by rw [tail_length, hmod]
    obtain ⟨k, -, -, -, -, -, hone, htwo⟩ := padLayout s.tail s.len htail
    rw [tail_length] at hone htwo
    rw [writeDigest_digest, finalWords]
  · rw [(hone hfill).2]; rfl
  · rw [(htwo hfill).2]; rfl

/-- Settles O18: OP 0 is NOP's, whose NB and RSV must be 0. -/
theorem nopCompletesUnchanged : Obligations.NopCompletesUnchanged := by
  refine ⟨by decide, fun s => rfl, fun c hop hne => ?_⟩
  cases hd : decode c with
  | error e => exact ⟨e, rfl⟩
  | ok i =>
    obtain ⟨-, hz⟩ | ⟨h2, -⟩ := (legalExactlyTheEightWords c).1.mp ⟨i, hd⟩
    · exact absurd hz hne
    · exact absurd (hop.symm.trans h2) (by decide)

/-- Settles O19: the fresh context has the values reset gives; the STATUS word has only its fields. -/
theorem initCompletesWithFreshContext : Obligations.InitCompletesWithFreshContext := by
  refine ⟨by decide, fun s => ⟨freshContext s, rfl, rfl, rfl, freshContext_tail s, rfl, rfl, rfl, rfl, rfl, rfl, rfl,
    ⟨rfl, rfl, rfl, rfl⟩, ?_, ?_⟩⟩
  · intro hp
    simp [statusWord, State.busy, hp, flagWord]
  · rintro rfl
    exact ⟨rfl, rfl, rfl, freshContext_tail _, rfl, rfl⟩

/-- Settles O32: the commit of a legal word is its command's meaning, and a placed word commits. -/
theorem stepRunsTheDecodedCommand : Obligations.StepRunsTheDecodedCommand :=
  ⟨fun _ _ _ hc hd => step_commit_ok hc hd,
    fun s nbits w _ hd => step_commit_ok (commits_withFetchWord s nbits w) (decode_of_decodeTableWord hd)⟩
end

section
/-! PROOFS. A sequence of UPDATEs: what it does to V, the buffered bytes and LEN depends on its bytes alone, and FINALIZE reads
these three and writes none of them (R94 to R96). -/

namespace Sys2Proof.Machine

/-! ### What supplying bytes does -/

/-- V, the buffered bytes and LEN in `t` are those of `s` once the bytes `m` have been supplied (R86, R87). -/
structure Supplied (m : List Byte) (s t : State) : Prop where
  v : t.v = compressBlocks ((s.tail ++ m).length / 64) s.v (s.tail ++ m)
  tail : t.tail = tailBytes (s.tail ++ m)
  len : t.len = s.len + BitVec.ofNat 64 m.length

theorem supplied_nil (s : State) : Supplied [] s s := by
  have h : s.tail.length / 64 = 0 := Nat.div_eq_of_lt (tail_length_lt s)
  refine ⟨?_, ?_, ?_⟩
  · simp [h, compressBlocks]
  · simp [tailBytes, h]
  · simp

/-- Supplying `m` and then `m'` is supplying both at once (R95). -/
theorem Supplied.trans {m m' : List Byte} {s t u : State} (h : Supplied m s t) (h' : Supplied m' t u) :
    Supplied (m ++ m') s u where
  v := by rw [h'.v, h.tail, h.v, ← List.append_assoc, ← compressBlocks_whole_append]
  tail := by rw [h'.tail, h.tail, ← List.append_assoc, ← tailBytes_append]
  len := by rw [h'.len, h.len, List.length_append, BitVec.ofNat_add, BitVec.add_assoc]

/-- Only V, the buffered bytes and LEN of the first state matter. -/
theorem Supplied.of_same {m : List Byte} {s s' t : State} (h : Supplied m s t) (hv : s'.v = s.v)
    (htail : s'.tail = s.tail) (hlen : s'.len = s.len) : Supplied m s' t := by
  refine ⟨?_, ?_, ?_⟩
  · rw [hv, htail, h.v]
  · rw [htail, h.tail]
  · rw [hlen, h.len]

/-- What is supplied fixes V, the buffered bytes and LEN, and so the words FINALIZE computes (R89). -/
theorem Supplied.finalWords_eq {m : List Byte} {s t u : State} (h : Supplied m s t) (h' : Supplied m s u) :
    finalWords t.v t.tail t.len = finalWords u.v u.tail u.len := by
  rw [h.v, h.tail, h.len, h'.v, h'.tail, h'.len]

/-- BUFLEN is the count of the buffered bytes. -/
theorem Supplied.buflen_eq {m : List Byte} {s t u : State} (h : Supplied m s t) (h' : Supplied m s u) :
    t.buflen = u.buflen := by
  apply BitVec.eq_of_toNat_eq
  rw [← tail_length, ← tail_length, h.tail, h'.tail]

/-- A state that holds a message holds it and the bytes supplied after it (R17). -/
theorem Supplied.represents {m m' : List Byte} {s t : State} (h : Supplied m' s t) (hm : Represents m s) :
    Represents (m ++ m') t := by
  obtain ⟨hv, htail, hlen⟩ := hm
  refine ⟨?_, ?_, ?_⟩
  · rw [h.v, htail, hv, ← compressBlocks_whole_append]
  · rw [h.tail, htail, ← tailBytes_append]
  · rw [h.len, hlen, List.length_append, BitVec.ofNat_add]

/-! ### UPDATE and FINALIZE -/

/-- UPDATE n, n = 0..4, supplies the first n bytes of DATAIN (R86). -/
theorem exec_update_supplied {nb : BitVec 3} (s : State) (h4 : nb.toNat ≤ 4) :
    ∃ t, exec (.update nb) s = .next t ∧ Supplied (updateChunk nb s.datain) s t := by
  by_cases h0 : nb = 0#3
  · subst h0
    exact ⟨s, rfl, supplied_nil s⟩
  · refine ⟨_, execUpdate_of_pos nb s (BitVec.toNat_pos_of_ne_zero h0) h4, rfl, by simp, ?_⟩
    rw [updateChunk_length nb _ h4, BitVec.ofNat_toNat]
    rfl

/-- UPDATEs, each after a write of DATAIN, supply the bytes of them all (R94, R95). -/
theorem runUpdates_supplied {cs : List Chunk} (s : State) (h : ∀ c ∈ cs, c.1.toNat ≤ 4) :
    ∃ t, runUpdates cs s = .next t ∧ Supplied (chunkBytes cs) s t := by
  induction cs generalizing s with
  | nil => exact ⟨s, rfl, supplied_nil s⟩
  | cons c cs ih =>
    obtain ⟨h4, hcs⟩ := List.forall_mem_cons.mp h
    obtain ⟨t, ht, hst⟩ := exec_update_supplied (writeDatain c.2 s) h4
    obtain ⟨u, hu, htu⟩ := ih t hcs
    refine ⟨u, ?_, (hst.of_same (s' := s) rfl rfl rfl).trans htu⟩
    rw [runUpdates, ht]
    exact hu

/-- FINALIZE of a state that holds a message writes the digest of it and leaves the message held (R89, R94). -/
theorem Represents.finalize {m : List Byte} {s : State} (h : Represents m s) :
    Represents m (writeDigest s) ∧ digestBytes (writeDigest s).digest = sm3 m :=
  ⟨h, congrArg digestBytes h.finalWords_eq⟩

/-- INIT begins the empty message (R85). -/
theorem represents_freshContext (s : State) : Represents [] (freshContext s) :=
  represents_nil rfl (freshContext_tail s) rfl

end Sys2Proof.Machine

open Sys2Proof Sys2Proof.Machine

/-- Settles O22: INIT begins the empty message, the UPDATEs supply theirs, and FINALIZE writes its digest. -/
theorem digestIsSm3OfMessage : Obligations.DigestIsSm3OfMessage := by
  intro s cs h _
  obtain ⟨u, hu, hsup⟩ := runUpdates_supplied (freshContext s) h
  have hm : Represents (chunkBytes cs) u := hsup.represents (represents_freshContext s)
  exact ⟨_, u, _, rfl, hu, rfl, hm.finalize.2, rfl⟩

/-- Settles O23: both sequences supply the same bytes to the same state. -/
theorem chunkingInvariance : Obligations.ChunkingInvariance := by
  intro s cs ds hcs hds hbytes
  obtain ⟨t, ht, hst⟩ := runUpdates_supplied s hcs
  obtain ⟨u, hu, hsu⟩ := runUpdates_supplied s hds
  rw [← hbytes] at hsu
  exact ⟨t, u, ht, hu, hst.v.trans hsu.v.symm, hst.tail.trans hsu.tail.symm, hst.buflen_eq hsu,
    hst.len.trans hsu.len.symm⟩

/-- Settles O24: FINALIZE leaves the message held, so what is supplied after it joins that message; and from any state it
leaves alone V, the buffered bytes and LEN, which are all that a later digest depends on. -/
theorem finalizeIsAPureQuery : Obligations.FinalizeIsAPureQuery := by
  constructor
  · intro s cs ds hcs hds _
    obtain ⟨u, hu, hsu⟩ := runUpdates_supplied (freshContext s) hcs
    obtain ⟨hf, hdigest⟩ := (hsu.represents (represents_freshContext s)).finalize
    obtain ⟨w, hw, hsw⟩ := runUpdates_supplied (writeDigest (writeDigest u)) hds
    have hg := (hsw.represents hf.finalize.1).finalize.2
    exact ⟨_, u, _, _, w, _, rfl, hu, rfl, hdigest, rfl, rfl, hw, rfl, hg⟩
  · intro s cs hcs
    obtain ⟨t, ht, hst⟩ := runUpdates_supplied (writeDigest s) hcs
    obtain ⟨t', ht', hst'⟩ := runUpdates_supplied s hcs
    have hst : Supplied (chunkBytes cs) s t := hst.of_same rfl rfl rfl
    exact ⟨_, t, _, t', _, rfl, ht, rfl, ht', rfl, hst.finalWords_eq hst'⟩
end

section
/-! PROOFS. A command in flight: runs of several steps, what the port can do while the command waits, and its commit (R82,
R123). -/

namespace Sys2Proof.Machine

/-! ### Runs -/

theorem run_of_step {k : Nat} {s t u : State} (h : step s = .next t) (hr : core.run k t = .next u) :
    core.run (k + 1) s = .next u := by
  have hs : core.step s = .next t := h
  simp only [Host.Core.run, hs]
  exact hr

theorem run_trans {j k : Nat} {s t u : State} (h : core.run j s = .next t) (hr : core.run k t = .next u) :
    core.run (j + k) s = .next u := by
  induction j generalizing s with
  | zero =>
    cases h
    rwa [Nat.zero_add]
  | succ j ih =>
    simp only [Host.Core.run] at h
    split at h
    · next s' hs =>
      rw [Nat.succ_add]
      exact run_of_step hs (ih h)
    · cases h
    · cases h

/-! ### The core apart from its port -/

/-- The state with the accesses `hs` held, the inputs `is` to come and the responses `rs` given. -/
def withPort (hs : List Access) (is : List Input) (rs : List Response) (s : State) : State :=
  { s with held := hs, inputs := is, responses := rs }

/-! ### The kinds of access -/

/-- The access is answered at once even while a command is in flight, before any access held: it fails a check or reads STATUS
(R43, R44). -/
def overtakes (a : Access) : Bool := (windowOffset a.addr).isSome && !ordinary a

/-- An access outside the window passes; R44 may hold the ordinary ones; those that overtake are answered with the error of the
check they fail or with the STATUS word. -/
theorem access_kinds (a : Access) :
    (ordinary a = false ∧ overtakes a = false ∧ ∀ s, receive a s = s) ∨
    (ordinary a = true ∧ overtakes a = false) ∨
    (ordinary a = false ∧ overtakes a = true ∧
      ((∃ e, ∀ s, receive a s = respond a (.error e) s) ∨ ∀ s, receive a s = respond a (.data (statusWord s)) s)) := by
  cases hw : windowOffset a.addr with
  | none => exact .inl ⟨by simp [ordinary, hw], by simp [overtakes, hw], fun s => receive_eq_self_of_outside s hw⟩
  | some off =>
    have hoff : AtOffset a off := ⟨windowOffset_some hw, off.isLt⟩
    right
    cases hc : busCheck a.kind off a.size with
    | error e =>
      have ho : ordinary a = false := by simp [ordinary, hw, hc]
      exact .inr ⟨ho, by simp [overtakes, hw, ho], .inl ⟨e, fun s => receive_eq_respond_error hoff s hc⟩⟩
    | ok op =>
      by_cases h : op = .readStatus
      · subst h
        have ho : ordinary a = false := by simp [ordinary, hw, hc]
        exact .inr ⟨ho, by simp [overtakes, hw, ho], .inr fun s => receive_eq_perform hoff hc (.inr rfl)⟩
      · have ho : ordinary a = true := (ordinary_iff a).mpr ⟨off, op, hoff, hc, h⟩
        exact .inl ⟨ho, by simp [overtakes, ho]⟩

/-- `r` is what the access `a` is answered in any state, unless it shows BUSY = 1. -/
def EarlyAnswer (a : Access) (r : Response) : Prop :=
  ∀ s, ∃ x, receive a s = respond a x s ∧ SameButBusy r ⟨a, x⟩

theorem showsBusy_statusWord {s : State} (h : s.busy = true) : showsBusy (.data (statusWord s)) :=
  ⟨statusWord s, rfl, (statusWordFields s).1.trans h⟩

theorem receive_busy_of_overtakes {a : Access} {s : State} (ha : overtakes a = true) (h : s.busy = true) :
    ∃ x, receive a s = respond a x s ∧ EarlyAnswer a ⟨a, x⟩ := by
  obtain ⟨-, hv, -⟩ | ⟨-, hv⟩ | ⟨-, -, ⟨e, hall⟩ | hall⟩ := access_kinds a
  · simp [hv] at ha
  · simp [hv] at ha
  · exact ⟨_, hall s, fun u => ⟨_, hall u, rfl, .inl rfl⟩⟩
  · exact ⟨_, hall s, fun u => ⟨_, hall u, rfl, .inr (showsBusy_statusWord h)⟩⟩

/-- In flight an access touches the port only: it is held if R44 may hold it, and answered if it overtakes. -/
theorem receive_busy_withPort {s : State} (h : s.busy = true) (a : Access) :
    ∃ new, receive a s = withPort (s.held ++ [a].filter ordinary) s.inputs (s.responses ++ new) s ∧
      List.Forall₂ EarlyAnswer ([a].filter overtakes) new := by
  obtain ⟨ho, hv, hall⟩ | ⟨ho, hv⟩ | ⟨ho, hv, -⟩ := access_kinds a
  · refine ⟨[], ?_, by simp [hv]⟩
    simp [hall, ho, withPort]
  · refine ⟨[], ?_, by simp [hv]⟩
    simp [receive_eq_hold ho h, ho, withPort, hold, setHeld]
  · obtain ⟨x, hx, hearly⟩ := receive_busy_of_overtakes hv h
    refine ⟨[⟨a, x⟩], ?_, by simpa [hv] using hearly⟩
    simp [hx, ho, withPort, respond]

/-- In flight a step of the port takes at most one input and touches nothing but the port (R44). -/
theorem takeInput_busy_withPort {s : State} (h : s.busy = true) :
    ∃ hs rs, takeInput s = withPort hs s.inputs.tail rs s := by
  obtain ⟨hi, e⟩ | ⟨a, rest, hi, e⟩ | ⟨i, rest, hi, -, e⟩ := takeInput_cases s
  · exact ⟨s.held, s.responses, by rw [e, withPort, hi, List.tail_nil, ← hi]⟩
  · obtain ⟨new, hw, -⟩ := receive_busy_withPort (s := setInputs rest s) h a
    exact ⟨_, _, by rw [e, hw, hi]; rfl⟩
  · exact ⟨s.held, s.responses, by rw [e, hi]; rfl⟩

/-! ### The wait -/

theorem resetNext_eq_false {s : State} (h : ∀ i ∈ s.inputs, i ≠ .resetAssert) : resetNext s = false :=
  decide_eq_false fun hn => h _ (List.mem_of_mem_head? hn) rfl

/-- A command in flight, no reset coming, is about to commit once its wait is over; what the steps of the port keep on the way
holds then (R82, R123). -/
theorem run_until_commits {c : Word} {P : State → Prop}
    (hstep : ∀ s n, s.pend = some c → P s → P (takeInput (tick n s))) {s : State} (hr : s.rst = false)
    (hp : s.pend = some c) (hi : ∀ i ∈ s.inputs, i ≠ .resetAssert) (hP : P s) :
    ∃ t, core.run s.wait s = .next t ∧ Commits c t ∧ P t := by
  induction hw : s.wait generalizing s with
  | zero => exact ⟨s, rfl, ⟨hr, resetNext_eq_false hi, hp, hw⟩, hP⟩
  | succ n ih =>
    have hs := step_of_waiting hr (resetNext_eq_false hi) (by simp [hp]) hw
    obtain ⟨hs', rs, e⟩ := takeInput_busy_withPort (s := tick n s) (by simp [State.busy, hp])
    have hP' := hstep s n hp hP
    rw [e] at hs hP'
    obtain ⟨t, ht, h⟩ := ih (s := withPort hs' s.inputs.tail rs (tick n s)) hr hp
      (fun i h => hi i (List.mem_of_mem_tail h)) hP' rfl
    exact ⟨t, run_of_step hs ht, h⟩

end Sys2Proof.Machine

open Sys2Proof Sys2Proof.Machine

/-- Settles O46: while the command waits, only the port changes; the step after the wait commits it. -/
theorem everyAcceptedCommandCommits : Obligations.EveryAcceptedCommandCommits := by
  intro s c hr hp hi
  have hkeep : ∀ (t : State) (n : Nat), t.pend = some c → SameCore s t → SameCore s (takeInput (tick n t)) := by
    intro t n ht hst
    obtain ⟨hs, rs, e⟩ := takeInput_busy_withPort (s := tick n t) (by simp [State.busy, ht])
    rw [e]
    exact hst
  obtain ⟨t, hrun, hc, hst⟩ := run_until_commits hkeep hr hp hi ⟨rfl, rfl, rfl, rfl, rfl, rfl, rfl, rfl, rfl⟩
  obtain ⟨u, hu, hpend, -⟩ := commit_completes c t
  have hstep := step_of_commits hc
  exact ⟨t, u, hrun, hc, hst, hstep, hstep.trans hu, hpend⟩
end

section
/-! PROOFS. R82's atomic view, its pieces. The core run step by step may have taken accesses that the atomic run has still to take:
it holds the ordinary ones of them and has already answered those that overtake. -/

namespace Sys2Proof.Machine

/-! ### The command in flight, committed at once -/

/-- The command in flight, if there is one, commits now. -/
def settle (s : State) : StepOutcome :=
  match s.pend with
  | some c => commit c (tick 0 s)
  | none => .next s

theorem settle_of_none {s : State} (h : s.pend = none) : settle s = .next s := by
  simp only [settle, h]

/-- A command whose wait is over commits as it is. -/
theorem settle_of_commits {c : Word} {s : State} (h : Commits c s) : settle s = commit c s := by
  obtain ⟨-, -, hp, hw⟩ := h
  simp only [settle, hp]
  rw [tick, ← hw]

theorem settle_tick {s : State} (n : Nat) (h : s.pend ≠ none) : settle (tick n s) = settle s := by
  obtain ⟨c, hc⟩ := Option.ne_none_iff_exists'.mp h
  simp only [settle, tick_pend, hc]
  rfl

theorem settle_completes (s : State) :
    ∃ t, settle s = .next t ∧ t.pend = none ∧ t.rst = s.rst ∧ t.held = s.held ∧ t.inputs = s.inputs ∧
      t.responses = s.responses := by
  cases h : s.pend with
  | none => exact ⟨s, settle_of_none h, h, rfl, rfl, rfl, rfl⟩
  | some c =>
    obtain ⟨t, ht, hp, hr, hh, hi, hrs, -⟩ := commit_completes c (tick 0 s)
    exact ⟨t, by simpa only [settle, h] using ht, hp, hr, hh, hi, hrs⟩

/-- A commit neither reads nor writes the port. -/
theorem settle_withPort {s t : State} (h : settle s = .next t) (hs : List Access) (is : List Input) (rs : List Response) :
    settle (withPort hs is rs s) = .next (withPort hs is rs t) := by
  have hp : (withPort hs is rs s).pend = s.pend := rfl
  unfold settle at h ⊢
  rw [hp]
  cases hc : s.pend with
  | none =>
    simp only [hc] at h ⊢
    cases h; rfl
  | some c =>
    simp only [hc, commit] at h ⊢
    cases hd : decode c with
    | error e => simp only [hd] at h ⊢; cases h; rfl
    | ok i =>
      simp only [hd] at h ⊢
      cases i with
      | nop => cases h; rfl
      | init => cases h; rfl
      | finalize => cases h; rfl
      | update nb =>
        have htail : (withPort hs is rs s).tail = s.tail := rfl
        simp only [exec, execUpdate] at h ⊢
        split at h
        · next h0 => rw [if_pos h0]; cases h; rfl
        · next h0 =>
          rw [if_neg h0]
          split at h
          · next h4 => rw [if_pos h4]; cases h; rfl
          · next h4 => rw [if_neg h4]; cases h; rfl

theorem atomicAccess_eq_settle (a : Access) (s : State) : atomicAccess a s = settle (receive a s) := rfl

theorem runAtomic_cons {a : Access} {s t : State} (h : atomicAccess a s = .next t) (as : List Access) :
    runAtomic (a :: as) s = runAtomic as t := by
  rw [runAtomic, h]

/-! ### Receiving an access with no command in flight -/

/-- The access is performed or answered at once, and what it does and is answered does not depend on the port. -/
theorem receive_idle_withPort {s : State} (h : s.busy = false) (a : Access) :
    ∃ new : List Response, (∀ r ∈ new, r.access = a) ∧ (receive a s).responses = s.responses ++ new ∧
      ∀ hs is rs, receive a (withPort hs is rs s) = withPort hs is (rs ++ new) (receive a s) := by
  have hb : ∀ hs is rs, (withPort hs is rs s).busy = false := fun _ _ _ => h
  obtain ⟨-, -, hall⟩ | ⟨ho, -⟩ | ⟨-, -, ⟨e, hall⟩ | hall⟩ := access_kinds a
  · exact ⟨[], by simp, by simp [hall], fun hs is rs => by rw [hall, hall, List.append_nil]⟩
  · obtain ⟨off, op, hoff, hc, -⟩ := (ordinary_iff a).mp ho
    simp only [fun u hu => receive_eq_perform (s := u) hoff hc (.inl hu), h, hb]
    cases op <;> exact ⟨[⟨a, _⟩], by simp, rfl, fun _ _ _ => rfl⟩
  · simp only [hall]
    exact ⟨[⟨a, _⟩], by simp, rfl, fun _ _ _ => rfl⟩
  · simp only [hall]
    exact ⟨[⟨a, _⟩], by simp, rfl, fun _ _ _ => rfl⟩

/-! ### The answers -/

/-- Of the answers `rs`, those to accesses R44 may hold. -/
def ordinaryAnswers (rs : List Response) : List Response := rs.filter fun r => ordinary r.access

/-- Of the answers `rs`, those to accesses R44 never holds. -/
def promptAnswers (rs : List Response) : List Response := rs.filter fun r => !ordinary r.access

@[simp] theorem ordinaryAnswers_append (rs rs' : List Response) :
    ordinaryAnswers (rs ++ rs') = ordinaryAnswers rs ++ ordinaryAnswers rs' := List.filter_append ..

@[simp] theorem promptAnswers_append (rs rs' : List Response) :
    promptAnswers (rs ++ rs') = promptAnswers rs ++ promptAnswers rs' := List.filter_append ..

theorem answers_of_all_ordinary {rs : List Response} (h : ∀ r ∈ rs, ordinary r.access = true) :
    ordinaryAnswers rs = rs ∧ promptAnswers rs = [] :=
  ⟨List.filter_eq_self.mpr h, List.filter_eq_nil_iff.mpr fun r hr => by simp [h r hr]⟩

theorem answers_of_none_ordinary {rs : List Response} (h : ∀ r ∈ rs, ordinary r.access = false) :
    ordinaryAnswers rs = [] ∧ promptAnswers rs = rs :=
  ⟨List.filter_eq_nil_iff.mpr fun r hr => by simp [h r hr], List.filter_eq_self.mpr fun r hr => by simp [h r hr]⟩

/-- The answers given early to an access are prompt ones. -/
theorem early_not_ordinary {a : Access} {new : List Response}
    (h : List.Forall₂ EarlyAnswer ([a].filter overtakes) new) : ∀ r ∈ new, ordinary r.access = false := by
  by_cases hv : overtakes a = true
  · rw [List.filter_cons_of_pos hv] at h
    obtain ⟨r, _, hr, ⟨⟩, rfl⟩ := List.forall₂_cons_left_iff.mp h
    obtain ⟨x, -, hacc, -⟩ := hr State.reset
    have ho : ordinary a = false := by simpa [overtakes] using (Bool.and_elim_right hv)
    simpa [hacc] using ho
  · rw [List.filter_cons_of_neg hv] at h
    cases h
    simp

/-- The answers `rs` of the core and `us` of the atomic run, which has still to take the accesses `Q` the core has taken: the
ordinary ones are the same; the prompt ones are alike, and after them the core has given those of `Q` that overtake. -/
def AnswersMatch (Q : List Access) (rs us : List Response) : Prop :=
  ordinaryAnswers rs = ordinaryAnswers us ∧
  ∃ P E, promptAnswers rs = P ++ E ∧ List.Forall₂ SameButBusy P (promptAnswers us) ∧
    List.Forall₂ EarlyAnswer (Q.filter overtakes) E

theorem sameButBusy_refl (rs : List Response) : List.Forall₂ SameButBusy rs rs :=
  List.forall₂_same.mpr fun _ _ => ⟨rfl, .inl rfl⟩

/-- With nothing ahead of the atomic run all the prompt answers are alike. -/
theorem answersMatch_nil {rs us : List Response} :
    AnswersMatch [] rs us ↔
      ordinaryAnswers rs = ordinaryAnswers us ∧ List.Forall₂ SameButBusy (promptAnswers rs) (promptAnswers us) := by
  constructor
  · rintro ⟨ho, P, E, hrs, hP, hE⟩
    cases hE
    rw [hrs, List.append_nil]
    exact ⟨ho, hP⟩
  · rintro ⟨ho, hP⟩
    exact ⟨ho, _, [], (List.append_nil _).symm, hP, .nil⟩

section
variable {a : Access} {Q : List Access} {rs us new : List Response}

/-- Both runs give the same answers, none of them prompt. -/
theorem AnswersMatch.append_ordinary (h : AnswersMatch Q rs us) (hnew : ∀ r ∈ new, ordinary r.access = true) :
    AnswersMatch Q (rs ++ new) (us ++ new) := by
  obtain ⟨ho, P, E, hrs, hP, hE⟩ := h
  refine ⟨?_, P, E, ?_, ?_, hE⟩
  · rw [ordinaryAnswers_append, ordinaryAnswers_append, ho]
  · rw [promptAnswers_append, (answers_of_all_ordinary hnew).2, List.append_nil, hrs]
  · rwa [promptAnswers_append, (answers_of_all_ordinary hnew).2, List.append_nil]

/-- Both runs give the same answers, the core having answered nothing ahead of the atomic run. -/
theorem AnswersMatch.append (h : AnswersMatch [] rs us) (new : List Response) :
    AnswersMatch [] (rs ++ new) (us ++ new) := by
  obtain ⟨ho, hP⟩ := answersMatch_nil.mp h
  rw [answersMatch_nil, ordinaryAnswers_append, ordinaryAnswers_append, promptAnswers_append, promptAnswers_append, ho]
  exact ⟨rfl, List.rel_append hP (sameButBusy_refl _)⟩

/-- The core takes an access in flight, and answers it if it overtakes. -/
theorem AnswersMatch.takes (h : AnswersMatch Q rs us) (hnew : List.Forall₂ EarlyAnswer ([a].filter overtakes) new) :
    AnswersMatch (Q ++ [a]) (rs ++ new) us := by
  obtain ⟨ho, P, E, hrs, hP, hE⟩ := h
  obtain ⟨hnone, hall⟩ := answers_of_none_ordinary (early_not_ordinary hnew)
  refine ⟨?_, P, E ++ new, ?_, hP, ?_⟩
  · rw [ordinaryAnswers_append, hnone, List.append_nil, ho]
  · rw [promptAnswers_append, hall, hrs, List.append_assoc]
  · rw [List.filter_append]
    exact List.rel_append hE hnew

/-- An ordinary access has no early answer. -/
theorem AnswersMatch.of_cons_ordinary (h : AnswersMatch (a :: Q) rs us) (ho : ordinary a = true) : AnswersMatch Q rs us := by
  rwa [AnswersMatch, List.filter_cons_of_neg (by simp [overtakes, ho])] at h

/-- The atomic run takes an access that R44 may not hold, which changes its answers only: the core has answered it already, if it
is answered at all. -/
theorem AnswersMatch.catches_up {u : State} (h : AnswersMatch (a :: Q) rs u.responses) (ho : ordinary a = false) :
    AnswersMatch Q rs (receive a u).responses ∧ receive a u = withPort u.held u.inputs (receive a u).responses u := by
  obtain ⟨hord, P, E, hrs, hP, hE⟩ := h
  obtain ⟨-, hv, hall⟩ | ⟨ho', -⟩ | ⟨-, hv, -⟩ := access_kinds a
  · rw [List.filter_cons_of_neg (by simp [hv])] at hE
    rw [hall]
    exact ⟨⟨hord, P, E, hrs, hP, hE⟩, rfl⟩
  · rw [ho] at ho'; cases ho'
  · rw [List.filter_cons_of_pos hv] at hE
    obtain ⟨r, E', hr, hE', rfl⟩ := List.forall₂_cons_left_iff.mp hE
    obtain ⟨x, hx, hsame⟩ := hr u
    obtain ⟨hnone, hall⟩ := answers_of_none_ordinary (rs := [⟨a, x⟩]) (by simpa using ho)
    rw [hx]
    refine ⟨⟨?_, P ++ [r], E', ?_, ?_, hE'⟩, rfl⟩
    · rw [respond_responses, ordinaryAnswers_append, hnone, List.append_nil, hord]
    · rw [hrs, List.append_assoc]; rfl
    · rw [respond_responses, promptAnswers_append, hall]
      exact List.rel_append hP (.cons hsame .nil)

end

end Sys2Proof.Machine
end

section
/-! PROOFS. The core and the atomic run of R82 side by side: every step of the core either leaves the accesses the atomic run has
still to take as they are, or performs the next of them in both. -/

namespace Sys2Proof.Machine

/-! ### The core behind the atomic run -/

/-- The core in `t` has taken the accesses `Q`, and `ins` are still to come. Once its command in flight has committed it is, but
for the port, in the state `u` of the atomic run, which has still to take both. -/
structure Lags (Q ins : List Access) (t u : State) : Prop where
  settles : settle t = .next (withPort t.held t.inputs t.responses u)
  rst : t.rst = false
  held : t.held = Q.filter ordinary
  inputs : t.inputs = ins.map .access
  answers : AnswersMatch Q t.responses u.responses

/-- While a command waits, what the core takes joins the accesses the atomic run has still to take. -/
theorem Lags.waits {Q ins : List Access} {t u : State} (h : Lags Q ins t u) (hp : t.pend ≠ none) (n : Nat) :
    ∃ Q' ins', Lags Q' ins' (takeInput (tick n t)) u ∧ Q' ++ ins' = Q ++ ins := by
  cases ins with
  | nil =>
    have e : takeInput (tick n t) = tick n t := by
      simp only [takeInput, tick_inputs, h.inputs, List.map_nil]
    rw [e]
    exact ⟨Q, [], ⟨(settle_tick n hp).trans h.settles, h.rst, h.held, h.inputs, h.answers⟩, rfl⟩
  | cons a ins =>
    have hb : (setInputs (ins.map .access) (tick n t)).busy = true := Option.isSome_iff_ne_none.mpr hp
    obtain ⟨new, hw, hnew⟩ := receive_busy_withPort hb a
    have e : takeInput (tick n t) =
        withPort (t.held ++ [a].filter ordinary) (ins.map .access) (t.responses ++ new) (tick n t) := by
      simp only [takeInput, tick_inputs, h.inputs, List.map_cons]
      exact hw
    rw [e]
    refine ⟨Q ++ [a], ins, ⟨?_, h.rst, ?_, rfl, h.answers.takes hnew⟩, by simp⟩
    · exact settle_withPort ((settle_tick n hp).trans h.settles) _ _ _
    · rw [List.filter_append, ← h.held]; rfl

/-- After finitely many steps the core is in the state of the atomic run but for the port. -/
theorem Lags.settles_down {Q ins : List Access} {t u : State} (h : Lags Q ins t u) :
    ∃ k Q' ins' rs, core.run k t = .next (withPort (Q'.filter ordinary) (ins'.map .access) rs u) ∧
      AnswersMatch Q' rs u.responses ∧ Q' ++ ins' = Q ++ ins := by
  cases hp : t.pend with
  | none =>
    have e : t = withPort t.held t.inputs t.responses u :=
      Host.Outcome.next.inj ((settle_of_none hp).symm.trans h.settles)
    rw [h.held, h.inputs] at e
    exact ⟨0, Q, ins, t.responses, congrArg _ e, h.answers, rfl⟩
  | some c =>
    have hi : ∀ i ∈ t.inputs, i ≠ .resetAssert := by simp [h.inputs]
    obtain ⟨t', hrun, hc, Q', ins', hlags, hlist⟩ :=
      run_until_commits (P := fun t' => ∃ Q' ins', Lags Q' ins' t' u ∧ Q' ++ ins' = Q ++ ins)
        (fun s n hs ⟨Q', ins', hl, hlist⟩ => by
          obtain ⟨Q'', ins'', hl', hlist'⟩ := hl.waits (by simp [hs]) n
          exact ⟨Q'', ins'', hl', hlist'.trans hlist⟩)
        h.rst hp hi ⟨Q, ins, h, rfl⟩
    have hstep : step t' = .next (withPort t'.held t'.inputs t'.responses u) := by
      rw [step_of_commits hc, ← settle_of_commits hc, hlags.settles]
    rw [hlags.held, hlags.inputs] at hstep
    exact ⟨_, Q', ins', t'.responses, run_trans hrun (run_of_step (k := 0) hstep rfl), hlags.answers, hlist⟩

/-- Both runs perform the access: an ordinary one, or any when the core is level with the atomic run. -/
theorem lags_of_receive {a : Access} {Q ins : List Access} {u : State} {rs : List Response} (hu : Idle u)
    (hm : AnswersMatch Q rs u.responses) (ha : ordinary a = true ∨ Q = []) :
    ∃ u', atomicAccess a u = .next u' ∧ Idle u' ∧ u'.inputs = u.inputs ∧
      Lags Q ins (receive a (withPort (Q.filter ordinary) (ins.map .access) rs u)) u' := by
  obtain ⟨hrst, hp, hheld⟩ := hu
  have hb : u.busy = false := by simp [State.busy, hp]
  obtain ⟨new, hacc, hnew, hport⟩ := receive_idle_withPort hb a
  obtain ⟨u', hu', hp', hrst', hheld', hinputs', hresp'⟩ := settle_completes (receive a u)
  obtain ⟨-, -, -, -, -, -, -, -, hr, hi⟩ := receive_frame a u
  have hrst'' : (receive a u).rst = false := hr.trans hrst
  refine ⟨u', hu', ⟨hrst'.trans hrst'', hp', hheld'.trans ((receive_idle_held a u hb).trans hheld)⟩,
    hinputs'.trans hi, ?_⟩
  rw [hport]
  refine ⟨settle_withPort hu' _ _ _, hrst'', rfl, rfl, ?_⟩
  rw [hresp', hnew]
  obtain ha | rfl := ha
  · exact hm.append_ordinary fun r h => by rw [hacc r h, ha]
  · exact hm.append new

/-! ### Ending level -/

/-- From `t` the core comes, idle and with no input left, to where the atomic run of the accesses `L` comes from `u`. -/
def EndsLevel (L : List Access) (t u : State) : Prop :=
  ∃ k rs u', core.run k t = .next (withPort [] [] rs u') ∧ runAtomic L u = .next u' ∧ Idle u' ∧ u'.inputs = u.inputs ∧
    AnswersMatch [] rs u'.responses

/-- A step that performs the next access of the atomic run: whatever the core takes while a command of it waits, the accesses the
atomic run has still to take are the same. -/
theorem endsLevel_of_receive {a : Access} {Q ins L : List Access} {t u : State} {rs : List Response} (hL : Q ++ ins = L)
    (hu : Idle u) (hm : AnswersMatch Q rs u.responses) (ha : ordinary a = true ∨ Q = [])
    (hstep : step t = .next (receive a (withPort (Q.filter ordinary) (ins.map .access) rs u)))
    (hrest : ∀ {Q' ins' : List Access} {u' : State} {rs' : List Response}, Q' ++ ins' = L → Idle u' →
      AnswersMatch Q' rs' u'.responses → EndsLevel L (withPort (Q'.filter ordinary) (ins'.map .access) rs' u') u') :
    EndsLevel (a :: L) t u := by
  obtain ⟨u', hatomic, hu', hi', hlags⟩ := lags_of_receive (ins := ins) hu hm ha
  obtain ⟨k, Q', ins', rs', hrun, hm', hlist⟩ := hlags.settles_down
  obtain ⟨k', rs'', u'', hrun', hatomic', hu'', hi'', hm''⟩ := hrest (hlist.trans hL) hu' hm'
  exact ⟨_, rs'', u'', run_of_step hstep (run_trans hrun hrun'), (runAtomic_cons hatomic L).trans hatomic', hu'',
    hi''.trans hi', hm''⟩

/-- The core takes all the accesses and ends level with the atomic run: by induction on the accesses that run has still to
take, of which the core has taken `Q`. -/
theorem endsLevel (L : List Access) {Q ins : List Access} {u : State} {rs : List Response} (hL : Q ++ ins = L)
    (hu : Idle u) (hm : AnswersMatch Q rs u.responses) :
    EndsLevel L (withPort (Q.filter ordinary) (ins.map .access) rs u) u := by
  induction L generalizing Q ins u rs with
  | nil =>
    obtain ⟨rfl, rfl⟩ := List.append_eq_nil_iff.mp hL
    exact ⟨0, rs, u, rfl, rfl, hu, rfl, hm⟩
  | cons a L ih =>
    cases Q with
    | nil =>
      subst hL
      exact endsLevel_of_receive rfl hu hm (.inr rfl) (step_of_idle hu.1 rfl hu.2.1) ih
    | cons q Q =>
      obtain ⟨rfl, hQ⟩ := List.cons.inj hL
      cases ho : ordinary q with
      | true =>
        have hreset : resetNext (withPort (q :: Q.filter ordinary) (ins.map .access) rs u) = false :=
          resetNext_eq_false (by simp [withPort])
        rw [List.filter_cons_of_pos ho]
        exact endsLevel_of_receive hQ hu (hm.of_cons_ordinary ho) (.inl ho) (step_of_idle hu.1 hreset hu.2.1) ih
      | false =>
        obtain ⟨hm', e⟩ := hm.catches_up ho
        have hu' : Idle (receive q u) := by rw [e]; exact hu
        have hatomic : atomicAccess q u = .next (receive q u) := settle_of_none hu'.2.1
        obtain ⟨k, rs', u', hrun, hatomic', hu'', hi'', hm''⟩ := ih hQ hu' hm'
        rw [e] at hrun hi''
        rw [List.filter_cons_of_neg (by simp [ho])]
        exact ⟨k, rs', u', hrun, (runAtomic_cons hatomic L).trans hatomic', hu'', hi'', hm''⟩

/-- At first the core has taken nothing. -/
theorem endsLevel_deliver {s : State} (hs : Idle s) (hi : s.inputs = []) (as : List Access) :
    EndsLevel as (deliver as s) s := by
  have e : deliver as s = withPort [] (as.map .access) s.responses s := by
    rw [deliver, hi, List.nil_append, withPort, ← hs.2.2]
    rfl
  rw [e]
  exact endsLevel as (Q := []) rfl hs (answersMatch_nil.mpr ⟨rfl, sameButBusy_refl _⟩)

end Sys2Proof.Machine

open Sys2Proof Sys2Proof.Machine

/-- Settles O47: the core ends level with the atomic run, in the same state but for the answers. -/
theorem commandsLookAtomic : Obligations.CommandsLookAtomic := by
  intro s as hs hi
  obtain ⟨k, rs, u, hrun, hatomic, hu, hi', hm⟩ := endsLevel_deliver hs hi as
  obtain ⟨hord, hprompt⟩ := answersMatch_nil.mp hm
  have hsame : withPort [] [] [] u = withPort u.held u.inputs [] u := by rw [hu.2.2, hi'.trans hi]
  exact ⟨k, _, u, hrun, ⟨hu.1, hu.2.1, rfl⟩, rfl, hatomic, hord, hprompt, hsame⟩
end

section
/-! PROOFS. The answers of a run are kept, and the host program HASH read by the atomic view of R82 (R65, R93). -/

namespace Sys2Proof.Machine

/-! ### Answers are only added -/

theorem receive_responses (a : Access) (s : State) : ∃ new, (receive a s).responses = s.responses ++ new := by
  cases hb : s.busy with
  | true =>
    obtain ⟨new, e, -⟩ := receive_busy_withPort hb a
    exact ⟨new, congrArg State.responses e⟩
  | false =>
    obtain ⟨new, -, e, -⟩ := receive_idle_withPort hb a
    exact ⟨new, e⟩

theorem takeInput_responses (s : State) : ∃ new, (takeInput s).responses = s.responses ++ new := by
  obtain ⟨-, e⟩ | ⟨a, rest, -, e⟩ | ⟨_, _, -, -, e⟩ := takeInput_cases s
  · exact ⟨[], by rw [e, List.append_nil]⟩
  · rw [e]; exact receive_responses a (setInputs rest s)
  · exact ⟨[], by rw [e, setInputs_responses, List.append_nil]⟩

theorem serveIdle_responses (s : State) : ∃ new, (serveIdle s).responses = s.responses ++ new := by
  obtain ⟨is, e⟩ | ⟨a, hs, is, -, -, e⟩ := serveIdle_cases s
  · exact ⟨[], by rw [e, setInputs_responses, List.append_nil]⟩
  · rw [e]; exact receive_responses a (setHeld hs (setInputs is s))

theorem step_responses {s t : State} (h : step s = .next t) : ∃ new, t.responses = s.responses ++ new := by
  obtain ⟨-, b, rfl⟩ | ⟨-, -, c, -, hc⟩ | ⟨-, -, -, n, -, -, rfl⟩ | ⟨-, -, -, -, rfl⟩ := step_next h
  · exact ⟨[], (List.append_nil _).symm⟩
  · obtain ⟨t', ht', -, -, -, -, hr, -⟩ := commit_completes c s
    rw [hc] at ht'
    cases ht'
    exact ⟨[], by rw [hr, List.append_nil]⟩
  · exact takeInput_responses (tick n s)
  · exact serveIdle_responses s

theorem run_responses {k : Nat} {s t : State} (h : core.run k s = .next t) :
    ∃ new, t.responses = s.responses ++ new := by
  induction k generalizing s with
  | zero => cases h; exact ⟨[], (List.append_nil _).symm⟩
  | succ k ih =>
    simp only [Host.Core.run] at h
    split at h
    · next s' hs =>
      obtain ⟨new, e⟩ := step_responses hs
      obtain ⟨new', e'⟩ := ih h
      exact ⟨new ++ new', by rw [e', e, List.append_assoc]⟩
    · cases h
    · cases h

/-- Where the atomic run has answered nothing but ordinary accesses, the core has given exactly its answers. -/
theorem AnswersMatch.eq_of_all_ordinary {old new new' : List Response} (h : AnswersMatch [] (old ++ new) (old ++ new'))
    (hall : ∀ r ∈ new', ordinary r.access = true) : new = new' := by
  obtain ⟨ho, hp⟩ := answersMatch_nil.mp h
  obtain ⟨hnew', hprompt'⟩ := answers_of_all_ordinary hall
  rw [ordinaryAnswers_append, ordinaryAnswers_append, hnew'] at ho
  have hlen := hp.length_eq
  rw [promptAnswers_append, promptAnswers_append, hprompt', List.length_append, List.length_append, List.length_nil] at hlen
  have hprompt : promptAnswers new = [] := List.eq_nil_of_length_eq_zero (by omega)
  have hall' : ∀ r ∈ new, ordinary r.access = true := by simpa [promptAnswers] using hprompt
  rw [← (answers_of_all_ordinary hall').1]
  exact List.append_cancel_left ho

/-! ### Programs in the atomic view -/

/-- The atomic run of the accesses `as` leads from `s` to `t`, where no command is in flight; its answers are all to accesses R44
may hold, and the reads among them returned `ws`. -/
structure Performs (as : List Access) (ws : List Word) (s t : State) : Prop where
  run : runAtomic as s = .next t
  pend : t.pend = none
  answers : ∃ new, t.responses = s.responses ++ new ∧ (∀ r ∈ new, ordinary r.access = true) ∧ readWords new = ws

theorem performs_nil {s : State} (hp : s.pend = none) : Performs [] [] s s :=
  ⟨rfl, hp, [], (List.append_nil _).symm, by simp, rfl⟩

theorem runAtomic_append {as : List Access} {s t : State} (h : runAtomic as s = .next t) (bs : List Access) :
    runAtomic (as ++ bs) s = runAtomic bs t := by
  induction as generalizing s with
  | nil => cases h; rfl
  | cons a as ih =>
    simp only [runAtomic] at h
    split at h
    · next s' hs => exact (runAtomic_cons hs (as ++ bs)).trans (ih h)
    · cases h
    · cases h

theorem Performs.append {as bs : List Access} {ws ws' : List Word} {s t u : State} (h : Performs as ws s t)
    (h' : Performs bs ws' t u) : Performs (as ++ bs) (ws ++ ws') s u := by
  obtain ⟨new, hnew, hord, hread⟩ := h.answers
  obtain ⟨new', hnew', hord', hread'⟩ := h'.answers
  refine ⟨(runAtomic_append h.run bs).trans h'.run, h'.pend, new ++ new', ?_, ?_, ?_⟩
  · rw [hnew', hnew, List.append_assoc]
  · exact List.forall_mem_append.mpr ⟨hord, hord'⟩
  · rw [← hread, ← hread']
    exact List.filterMap_append

theorem commit_of_decode {c : Word} {i : Instr} (hd : decode c = .ok i) (s : State) :
    commit c s = exec i (clearPend s) := by
  rw [commit, hd]

section
variable {m : Nat} {s : State} (hp : s.pend = none)
include hp

/-- With no command in flight a legal access is performed at once (R43). -/
theorem receive_register {a : Access} {off : Nat} (hoff : AtOffset a off) {op : BusOp}
    (hc : busCheck a.kind ⟨off, hoff.2⟩ a.size = .ok op) : receive a s = perform op a s :=
  receive_eq_perform hoff hc (.inl (by simp [State.busy, hp]))

theorem performs_writeDatain (v : Word) :
    Performs [memWrite m .datain v] [] s (respond (memWrite m .datain v) .written (writeDatain v s)) := by
  have hoff : AtOffset (memWrite m .datain v) 0x08 := ⟨rfl, by decide⟩
  have hc : busCheck .write 0x08 4 = .ok .writeDatain := rfl
  have hord : ordinary (memWrite m .datain v) = true := (ordinary_iff _).mpr ⟨_, _, hoff, hc, by decide⟩
  have hrun : atomicAccess (memWrite m .datain v) s = .next (respond (memWrite m .datain v) .written (writeDatain v s)) := by
    rw [atomicAccess_eq_settle, receive_register hp hoff hc]
    exact settle_of_none hp
  exact ⟨runAtomic_cons hrun [], hp, [_], rfl, by simpa using hord, rfl⟩

theorem performs_readDigest (i : Fin 8) :
    Performs [memRead m (.digest i)] [s.digest[i]] s (respond (memRead m (.digest i)) (.data s.digest[i]) s) := by
  have hoff : AtOffset (memRead m (.digest i)) (0x20 + 4 * i.val) := ⟨rfl, by omega⟩
  have hc := busCheck_read_digest i hoff.2
  have hord : ordinary (memRead m (.digest i)) = true := (ordinary_iff _).mpr ⟨_, _, hoff, hc, nofun⟩
  have hrun : atomicAccess (memRead m (.digest i)) s = .next (respond (memRead m (.digest i)) (.data s.digest[i]) s) := by
    rw [atomicAccess_eq_settle, receive_register hp hoff hc]
    exact settle_of_none hp
  exact ⟨runAtomic_cons hrun [], hp, [_], rfl, by simpa using hord, rfl⟩

/-- A write of a legal command word has the command's meaning, on a state with the hashing context and DATAIN of `s`. -/
theorem performs_command {c : Word} {i : Instr} (hd : decode c = .ok i) :
    ∃ t u, exec i t = .next u ∧ Performs [memWrite m .cmd c] [] s u ∧
      t.v = s.v ∧ t.tail = s.tail ∧ t.len = s.len ∧ t.datain = s.datain := by
  have hoff : AtOffset (memWrite m .cmd c) 0x00 := ⟨rfl, by decide⟩
  have hc : busCheck .write 0x00 4 = .ok .writeCmd := rfl
  have hord : ordinary (memWrite m .cmd c) = true := (ordinary_iff _).mpr ⟨_, _, hoff, hc, by decide⟩
  obtain ⟨u, hu, hpend, -, -, -, hresp, -⟩ :=
    exec_completes i (clearPend (tick 0 (perform .writeCmd (memWrite m .cmd c) s)))
  have hrun : atomicAccess (memWrite m .cmd c) s = .next u := by
    rw [atomicAccess_eq_settle, receive_register hp hoff hc, ← hu]
    exact commit_of_decode hd _
  exact ⟨_, u, hu, ⟨runAtomic_cons hrun [], hpend, [_], hresp, by simpa using hord, rfl⟩, rfl, rfl, rfl, rfl⟩

end

/-! ### The program HASH -/

/-- A byte of a concatenation above its last byte is a byte of what stands before it. -/
theorem extractLsb'_append_byte {n k : Nat} (x : BitVec n) (b : Byte) :
    (x ++ b).extractLsb' (k + 8) 8 = x.extractLsb' k 8 := by
  rw [BitVec.extractLsb'_append_eq_of_le (Nat.le_add_left 8 k), Nat.add_sub_cancel]

theorem bytes32_be32 (b0 b1 b2 b3 : Byte) : bytes32 (be32 b0 b1 b2 b3) = [b0, b1, b2, b3] := by
  have h2 : (b0 ++ b1 ++ b2 ++ b3).extractLsb' 8 8 = b2 :=
    (extractLsb'_append_byte (k := 0) _ b3).trans BitVec.extractLsb'_append_eq_right
  have h1 : (b0 ++ b1 ++ b2 ++ b3).extractLsb' 16 8 = b1 :=
    (extractLsb'_append_byte (k := 8) _ b3).trans
      ((extractLsb'_append_byte (k := 0) _ b2).trans BitVec.extractLsb'_append_eq_right)
  have h0 : (b0 ++ b1 ++ b2 ++ b3).extractLsb' 24 8 = b0 :=
    (extractLsb'_append_byte (k := 16) _ b3).trans
      ((extractLsb'_append_byte (k := 8) _ b2).trans BitVec.extractLsb'_append_eq_left)
  have h3 : (b0 ++ b1 ++ b2 ++ b3).extractLsb' 0 8 = b3 := BitVec.extractLsb'_append_eq_right
  simp only [bytes32, List.cons.injEq, and_true]
  exact ⟨h0, h1, h2, h3⟩

/-- FEED's word carries the bytes fed (R46, R65). -/
theorem updateChunk_packBytes {bs : List Byte} (h : bs.length ≤ 4) :
    updateChunk (BitVec.ofNat 3 bs.length) (packBytes bs) = bs := by
  rw [updateChunk, datainBytes, packBytes, bytes32_be32]
  match bs, h with
  | [], _ => rfl
  | [_], _ => rfl
  | [_, _], _ => rfl
  | [_, _, _], _ => rfl
  | [_, _, _, _], _ => rfl

theorem decode_updateWord (n : Fin 5) :
    decode (0x00000002#32 ||| (BitVec.ofNat 32 n.val <<< 4)) = .ok (.update (BitVec.ofNat 3 n.val)) := by
  revert n; decide

section
variable (master : Nat) {s : State} (hp : s.pend = none)
include hp

theorem performs_init : ∃ t, Performs (programAccesses master [.init]) [] s t ∧ Represents [] t := by
  obtain ⟨r, t, ht, hperf, -⟩ := performs_command (m := master) hp (c := 0x00000001#32) (i := .init) rfl
  cases ht
  exact ⟨_, hperf, represents_freshContext r⟩

theorem performs_feed {m bs : List Byte} (hm : Represents m s) (h : bs.length ≤ 4) :
    ∃ t, Performs (programAccesses master (feed bs)) [] s t ∧ Represents (m ++ bs) t := by
  have hn : (Fin.ofNat 5 bs.length).val = bs.length := Nat.mod_eq_of_lt (by omega)
  have hnb : (BitVec.ofNat 3 bs.length).toNat ≤ 4 := by rw [BitVec.toNat_ofNat]; omega
  have hw := performs_writeDatain (m := master) hp (packBytes bs)
  obtain ⟨r, t, ht, hperf, hv, htail, hlen, hd⟩ :=
    performs_command (m := master) hw.pend (decode_updateWord (Fin.ofNat 5 bs.length))
  rw [hn] at ht
  obtain ⟨t', ht', hsup⟩ := exec_update_supplied r hnb
  rw [ht] at ht'
  cases ht'
  rw [hd, respond_datain, writeDatain_datain, updateChunk_packBytes h] at hsup
  have hr : Represents m r := ⟨hv.trans hm.1, htail.trans hm.2.1, hlen.trans hm.2.2⟩
  exact ⟨t, hw.append hperf, hsup.represents hr⟩

end

theorem performs_feedStr (master : Nat) (bs : List Byte) {s : State} (hp : s.pend = none) {m : List Byte}
    (hm : Represents m s) : ∃ t, Performs (programAccesses master (feedStr bs)) [] s t ∧ Represents (m ++ bs) t := by
  induction bs using feedStr.induct generalizing s m with
  | case1 => exact ⟨s, performs_nil hp, by rwa [List.append_nil]⟩
  | case2 b0 b1 b2 b3 rest ih =>
    obtain ⟨t, ht, hmt⟩ := performs_feed master hp (bs := [b0, b1, b2, b3]) hm (Nat.le_refl 4)
    obtain ⟨u, hu, hmu⟩ := ih ht.pend hmt
    rw [List.append_assoc] at hmu
    refine ⟨u, ?_, hmu⟩
    rw [feedStr, programAccesses, List.map_append]
    exact ht.append hu
  | case3 bs h0 h4 =>
    have hlen : bs.length ≤ 4 := by
      by_contra hlt
      obtain _ | ⟨b0, _ | ⟨b1, _ | ⟨b2, _ | ⟨b3, rest⟩⟩⟩⟩ := bs
      all_goals simp at hlt
      exact h4 b0 b1 b2 b3 rest rfl
    rw [feedStr.eq_3 bs h0 h4]
    exact performs_feed master hp hm hlen

theorem performs_finalize (master : Nat) {s : State} (hp : s.pend = none) {m : List Byte} (hm : Represents m s) :
    ∃ t, Performs (programAccesses master [.finalize]) [] s t ∧ t.digest = sm3Words m ∧ t.dvalid = true := by
  obtain ⟨r, t, ht, hperf, hv, htail, hlen, -⟩ :=
    performs_command (m := master) hp (c := 0x00000003#32) (i := .finalize) rfl
  have hr : Represents m r := ⟨hv.trans hm.1, htail.trans hm.2.1, hlen.trans hm.2.2⟩
  cases ht
  exact ⟨_, hperf, hr.finalWords_eq, rfl⟩

theorem performs_readDigests (master : Nat) (is : List (Fin 8)) {s : State} (hp : s.pend = none) :
    ∃ t, Performs (programAccesses master (is.map fun i => .rd (.digest i))) (is.map fun i => s.digest[i]) s t ∧
      t.dvalid = s.dvalid := by
  induction is generalizing s with
  | nil => exact ⟨s, performs_nil hp, rfl⟩
  | cons i is ih =>
    have h := performs_readDigest (m := master) hp i
    obtain ⟨t, ht, hd⟩ := ih h.pend
    exact ⟨t, h.append ht, hd⟩

/-- HASH ends with the reads of the digest of its message (R65, R93). -/
theorem performs_hashProgram (master : Nat) (m : List Byte) {s : State} (hp : s.pend = none) :
    ∃ t, Performs (programAccesses master (hashProgram m)) (sm3Words m).toList s t ∧ t.dvalid = true := by
  obtain ⟨t, ht, hm⟩ := performs_init master hp
  obtain ⟨u, hu, hm⟩ := performs_feedStr master m ht.pend hm
  obtain ⟨w, hw, hdigest, hdv⟩ := performs_finalize master hu.pend hm
  obtain ⟨x, hx, hdv'⟩ := performs_readDigests master (List.finRange 8) hw.pend
  have hreads : (List.finRange 8).map (fun i => w.digest[i]) = (sm3Words m).toList := by
    rw [hdigest]
    exact List.ext_getElem (by simp) (by simp)
  rw [hreads] at hx
  refine ⟨x, ?_, hdv'.trans hdv⟩
  have h := ((ht.append hu).append hw).append hx
  simpa only [hashProgram, readDigest, programAccesses, List.map_append, List.nil_append] using h

end Sys2Proof.Machine

open Sys2Proof Sys2Proof.Machine

/-- Settles O48: the core ends level with the atomic run of the program, which reads the digest, and gives the same answers, since
every access of the program is one R44 may hold. -/
theorem hashProgramReadsSm3 : Obligations.HashProgramReadsSm3 := by
  intro s master m hs hi _
  obtain ⟨u, hperf, hdv⟩ := performs_hashProgram master m hs.2.1
  obtain ⟨new, hnew, hord, hread⟩ := hperf.answers
  obtain ⟨k, rs, u', hrun, hatomic, hu, -, hmatch⟩ := endsLevel_deliver hs hi (programAccesses master (hashProgram m))
  rw [hperf.run] at hatomic
  cases hatomic
  obtain ⟨new', hnew'⟩ := run_responses hrun
  have hrs : rs = s.responses ++ new' := hnew'
  rw [hrs, hnew] at hmatch
  refine ⟨k, _, hrun, ⟨hu.1, hu.2.1, rfl⟩, rfl, hdv, (sm3Words m).toList, ?_, Vector.length_toList, rfl⟩
  rw [hnew', ← hread, ← hmatch.eq_of_all_ordinary hord]
  exact List.filterMap_append
end

section
/-! PROOFS. R107: no operation of a step looks at the master of an access, so each carries a relabelling of the masters along. -/

namespace Sys2Proof.Machine

/-! ### Receiving an access -/

theorem respond_relabel (f : Nat → Nat) (a : Access) (r : Answer) (s : State) :
    respond (relabelAccess f a) r (relabel f s) = relabel f (respond a r s) := by
  simp [respond, relabel]

theorem hold_relabel (f : Nat → Nat) (a : Access) (s : State) :
    hold (relabelAccess f a) (relabel f s) = relabel f (hold a s) := by
  simp [hold, setHeld, relabel]

theorem perform_relabel (f : Nat → Nat) (op : BusOp) (a : Access) (s : State) :
    perform op (relabelAccess f a) (relabel f s) = relabel f (perform op a s) := by
  cases op with
  | writeCmd => exact respond_relabel f a _ (accept a.value s)
  | writeDatain => exact respond_relabel f a _ (writeDatain a.value s)
  | _ => exact respond_relabel f a _ s

/-- The checks of R43 and the hold of R44 look at the address, the kind and the size of the access and at BUSY. -/
theorem receive_relabel (f : Nat → Nat) (a : Access) (s : State) :
    receive (relabelAccess f a) (relabel f s) = relabel f (receive a s) := by
  cases hw : windowOffset a.addr with
  | none => rw [receive_eq_self_of_outside s hw, receive_eq_self_of_outside (a := relabelAccess f a) _ hw]
  | some off =>
    have hoff : AtOffset a off := ⟨windowOffset_some hw, off.isLt⟩
    cases hc : busCheck a.kind off a.size with
    | error e =>
      rw [receive_eq_respond_error hoff s hc, receive_eq_respond_error (a := relabelAccess f a) hoff _ hc,
        respond_relabel]
    | ok op =>
      by_cases h : s.busy = true ∧ op ≠ .readStatus
      · have ho : ordinary a = true := (ordinary_iff a).mpr ⟨off, op, hoff, hc, h.2⟩
        rw [receive_eq_hold ho h.1, receive_eq_hold (a := relabelAccess f a) (s := relabel f s) ho h.1, hold_relabel]
      · have hb : s.busy = false ∨ op = .readStatus := by
          rwa [not_and_or, Bool.not_eq_true, not_not] at h
        rw [receive_eq_perform hoff hc hb, receive_eq_perform (a := relabelAccess f a) (s := relabel f s) hoff hc hb,
          perform_relabel]

theorem takeInput_relabel (f : Nat → Nat) (s : State) : takeInput (relabel f s) = relabel f (takeInput s) := by
  have hinputs : (relabel f s).inputs = s.inputs.map (relabelInput f) := rfl
  unfold takeInput
  rw [hinputs]
  cases s.inputs with
  | nil => rfl
  | cons i rest =>
    cases i with
    | access a => exact receive_relabel f a (setInputs rest s)
    | resetAssert => rfl
    | resetRelease => rfl
    | quiet => rfl

theorem serveIdle_relabel (f : Nat → Nat) (s : State) : serveIdle (relabel f s) = relabel f (serveIdle s) := by
  have hheld : (relabel f s).held = s.held.map (relabelAccess f) := rfl
  unfold serveIdle
  rw [hheld]
  cases s.held with
  | nil => exact takeInput_relabel f s
  | cons a rest => exact receive_relabel f a (setHeld rest s)

/-! ### Reset and the commit -/

theorem resetNext_relabel (f : Nat → Nat) (s : State) : resetNext (relabel f s) = resetNext s := by
  have hinputs : (relabel f s).inputs = s.inputs.map (relabelInput f) := rfl
  unfold resetNext
  rw [hinputs]
  cases s.inputs with
  | nil => rfl
  | cons i rest => cases i <;> simp [relabelInput]

theorem stepResetAssert_relabel (f : Nat → Nat) (s : State) :
    stepResetAssert (relabel f s) = relabelOutcome f (stepResetAssert s) := by
  have hheld : (relabel f s).held = [] ↔ s.held = [] := List.map_eq_nil_iff
  unfold stepResetAssert
  by_cases h : s.held = []
  · rw [if_pos h, if_pos (hheld.mpr h)]
    simp [relabelOutcome, relabel, setReset, applyReset, setInputs]
  · rw [if_neg h, if_neg (mt hheld.mp h)]
    rfl

theorem stepInReset_relabel (f : Nat → Nat) (s : State) :
    stepInReset (relabel f s) = relabelOutcome f (stepInReset s) := by
  have hinputs : (relabel f s).inputs = s.inputs.map (relabelInput f) := rfl
  unfold stepInReset
  rw [hinputs]
  cases s.inputs with
  | nil => rfl
  | cons i rest =>
    cases i with
    | access a =>
      have haddr : (relabelAccess f a).addr = a.addr := rfl
      simp only [List.map_cons, relabelInput, haddr]
      split <;> rfl
    | resetAssert => rfl
    | resetRelease => rfl
    | quiet => rfl

/-- A commit does not touch the port, and the masters stand nowhere else (R82). -/
theorem commit_relabel (f : Nat → Nat) {c : Word} {s : State} (hc : Commits c s) (hc' : Commits c (relabel f s)) :
    commit c (relabel f s) = relabelOutcome f (commit c s) := by
  obtain ⟨t, ht, -, -, hheld, hinputs, hresp, -⟩ := commit_completes c s
  have hs : settle s = .next t := (settle_of_commits hc).trans ht
  have ht' : withPort (relabel f s).held (relabel f s).inputs (relabel f s).responses t = relabel f t := by
    simp only [relabel, withPort, hheld, hinputs, hresp]
  calc commit c (relabel f s)
      = settle (relabel f s) := (settle_of_commits hc').symm
    _ = .next (relabel f t) := ht' ▸ settle_withPort hs _ _ _
    _ = relabelOutcome f (commit c s) := by rw [ht]; rfl

/-! ### The step -/

theorem step_relabel (f : Nat → Nat) (s : State) : step (relabel f s) = relabelOutcome f (step s) := by
  have hreset := resetNext_relabel f s
  obtain ⟨hr, e⟩ | ⟨hr, hn, e⟩ | ⟨c, hc, e⟩ | ⟨n, h1, h2, h3, h4, e⟩ | ⟨h1, h2, h3, e⟩ := step_cases s
  · rw [e, ← stepInReset_relabel]
    exact if_pos hr
  · have hr' : ¬ (relabel f s).rst = true := by simp [relabel, hr]
    rw [e, ← stepResetAssert_relabel]
    exact (if_neg hr').trans (if_pos (hreset.trans hn))
  · have hc' : Commits c (relabel f s) := ⟨hc.1, hreset.trans hc.2.1, hc.2.2⟩
    rw [e, step_of_commits hc', commit_relabel f hc hc']
  · rw [e, step_of_waiting (s := relabel f s) h1 (hreset.trans h2) h3 h4]
    exact congrArg _ (takeInput_relabel f (tick n s))
  · rw [e, step_of_idle (s := relabel f s) h1 (hreset.trans h2) h3, serveIdle_relabel]
    rfl

end Sys2Proof.Machine

open Sys2Proof Sys2Proof.Machine

/-- Settles O31: every kind of step carries the relabelling along. -/
theorem mastersAreAlike : Obligations.MastersAreAlike := step_relabel
end

section
/-! PROOFS. What stops a step, the commit of an illegal word, and the idle core. -/

namespace Sys2Proof.Machine

/-- An idle core only takes the next input (R50, R112). -/
theorem step_of_idle_takes {s : State} (hs : Idle s) (hn : resetNext s = false) : step s = .next (takeInput s) := by
  obtain ⟨hrst, hp, hh⟩ := hs
  rw [step_of_idle hrst hn hp]
  simp only [serveIdle, hh]

/-- A legal access that is performed is answered, and not with an error (R45, R47). -/
theorem perform_answers (op : BusOp) (a : Access) (s : State) :
    ∃ r, (perform op a s).responses = s.responses ++ [⟨a, r⟩] ∧ ∀ e, r ≠ .error e := by
  cases op <;> exact ⟨_, rfl, nofun⟩

end Sys2Proof.Machine

open Sys2Proof Sys2Proof.Machine

/-- Settles O44, from the cases of a step. -/
theorem onlyABrokenResetStopsTheMachine : Obligations.OnlyABrokenResetStopsTheMachine :=
  ⟨step_next_iff_resetQuiet, step_ne_refused⟩

/-- Settles O33: the step is the model's record of an illegal command on the state with PEND cleared. -/
theorem illegalCommandSetsIllOnly : Obligations.IllegalCommandSetsIllOnly := fun _ _ _ hc hd =>
  ⟨_, step_commit_error hc hd, rfl, rfl, rfl, rfl, rfl, rfl, rfl, rfl, rfl, rfl, rfl, rfl, rfl, rfl⟩

/-- Settles O41: an idle core takes the next input, if there is one, and a legal access is then performed. -/
theorem idleCoreKeepsItsState : Obligations.IdleCoreKeepsItsState := by
  constructor
  · intro s hs
    refine ⟨fun hi => ?_, fun rest hi => ?_, fun rest hi => ?_⟩ <;>
      rw [step_of_idle_takes hs (by simp [resetNext, hi]), takeInput, hi] <;> rfl
  · rintro a ⟨off, op, hw, hc⟩
    have hr : Receives a [] (deliver [a] State.reset) := ⟨rfl, .inl ⟨rfl, rfl, rfl⟩⟩
    obtain ⟨n, -, hstep⟩ := step_performs hr ⟨windowOffset_some hw, off.isLt⟩ hc (.inl rfl)
    obtain ⟨r, hresp, hne⟩ := perform_answers op a (tick n (setInputs [] (deliver [a] State.reset)))
    exact ⟨_, r, hstep, hresp, hne⟩
end

section
/-! PROOFS. Reset at its assertion, while it is asserted and at its release, and the same effect of INIT on the hashing state
(R113, R114). -/

namespace Sys2Proof.Machine

/-- While reset is asserted every step is a step in reset (R113). -/
theorem step_of_rst {s : State} (hr : s.rst = true) : step s = stepInReset s := if_pos hr

section
variable {s : State} {rest : List Input} (hr : s.rst = false) (hi : s.inputs = .resetAssert :: rest)
include hr hi

/-- The assertion of reset goes before everything else (R103, R113). -/
theorem step_of_assert : step s = stepResetAssert s := by
  have hn : resetNext s = true := by simp [resetNext, hi]
  rw [step, if_neg (by simp [hr]), if_pos hn]

/-- Asserting reset with no access held gives the reset values (R113). -/
theorem step_of_assert_quiet (hh : s.held = []) :
    step s = .next (setReset true (applyReset (setInputs rest s))) := by
  rw [step_of_assert hr hi, stepResetAssert, if_pos hh, hi, List.tail_cons]

/-- Asserting reset while an access is held breaks RESET_QUIET (R113). -/
theorem step_of_assert_held (hh : s.held ≠ []) : step s = .fault .resetNotQuiet := by
  rw [step_of_assert hr hi, stepResetAssert, if_neg hh]

end

/-- A step in reset that RESET_QUIET allows gives the reset values, and only the release ends the reset (R113). -/
theorem step_of_rst_quiet {s : State} (hr : s.rst = true) (hq : ResetQuiet s) :
    ∃ b, step s = .next (setReset b (applyReset (setInputs s.inputs.tail s))) ∧
      (b = false ↔ s.inputs.head? = some .resetRelease) := by
  obtain ⟨-, b, h, hb⟩ | ⟨hn, -⟩ := stepInReset_cases s hr
  · exact ⟨b, (step_of_rst hr).trans h, hb⟩
  · exact absurd hq hn

/-- An access to the core while reset is asserted breaks RESET_QUIET (R113). -/
theorem step_of_rst_access {s : State} {a : Access} {rest : List Input} {off : Nat} (hr : s.rst = true)
    (hi : s.inputs = .access a :: rest) (ha : AtOffset a off) : step s = .fault .accessDuringReset := by
  simp [step_of_rst hr, stepInReset, hi, windowOffset_of_atOffset ha]

end Sys2Proof.Machine

open Sys2Proof Sys2Proof.Machine

/-- Settles O38: a step of reset is `applyReset` where RESET_QUIET holds, and the fault of what breaks it where it does not. -/
theorem resetGivesTheResetValues : Obligations.ResetGivesTheResetValues := by
  refine ⟨?asserted, ?during, ?access, ?held⟩
  case asserted =>
    intro s rest hr hi hh
    exact ⟨_, step_of_assert_quiet hr hi hh, rfl, rfl, rfl, rfl, rfl, rfl, rfl, rfl, rfl, rfl, rfl⟩
  case during =>
    intro s hr hq
    obtain ⟨b, h, hb⟩ := step_of_rst_quiet hr hq
    exact ⟨_, h, hb, rfl, rfl, rfl, rfl, rfl, rfl, rfl, rfl, rfl⟩
  case access => exact fun _ _ _ _ => step_of_rst_access
  case held => exact fun _ _ => step_of_assert_held

/-- Settles O40: INIT is `freshContext`, reset is `applyReset`; they write the same values to what both write. -/
theorem resetAndInitAgree : Obligations.ResetAndInitAgree := fun _ _ hr hi hh =>
  ⟨_, _, rfl, step_of_assert_quiet hr hi hh, rfl, rfl, rfl, rfl, rfl, rfl, rfl, rfl, rfl, rfl, rfl, rfl, rfl⟩
end
